-- ==== Sys2Proof/Word.lean ====
section
/-! DEFINITION. The words of the machine: the widths of 00_scope.md rule R10 and 10_state.md rules R54 and R71. -/

namespace Sys2Proof

/-- A data word: A, X, Y, SP, the packed status and every byte of memory (R10). -/
abbrev Byte := BitVec 8

/-- A CPU address: PC and every CPU bus address (R10). -/
abbrev Addr := BitVec 16

/-- A PPU-space address (R10, 20_memory.md rule R130). -/
abbrev PpuAddr := BitVec 14

/-- The PPU's scroll and address latches `v` and `t` (R54). -/
abbrev VAddr := BitVec 15

/-- A palette entry: a 6-bit system colour (R69). -/
abbrev Colour := BitVec 6

/-- A pixel of the frame buffer: three emphasis bits above a 6-bit colour (R71, 60_exceptions.md rule R378). -/
abbrev Pixel := BitVec 9

end Sys2Proof
end

