-- ==== Sys2Proof/Syntax.lean ====
section
/-! DEFINITION. The instructions: one constructor per row of spec/opcode_table.json (30_encoding.md rules R160, R163, R165).
A row's operand is the whole operand byte, or the 16-bit address its two operand bytes hold (R161). -/

namespace Sys2Proof

/-- The thirteen addressing modes (R160; 40_addressing.md rules R192 to R204). -/
inductive Mode where
  | implied | accumulator | immediate
  | zeroPage | zeroPageX | zeroPageY
  | absolute | absoluteX | absoluteY | indirect
  | indexedIndirectX | indirectIndexedY | relative
  deriving DecidableEq, Repr

/-- The 151 documented instructions. `imm` is an immediate value, `zp` a zero-page address or the zero-page address of
a pointer, `addr` an absolute address, `ptr` the address of a pointer, `off` a signed branch offset. -/
inductive Instr where
  -- load, store and transfer (41)
  | ldaImm (imm : Byte) | ldaZp (zp : Byte) | ldaZpX (zp : Byte) | ldaAbs (addr : Addr) | ldaAbsX (addr : Addr)
  | ldaAbsY (addr : Addr) | ldaIndX (zp : Byte) | ldaIndY (zp : Byte)
  | ldxImm (imm : Byte) | ldxZp (zp : Byte) | ldxZpY (zp : Byte) | ldxAbs (addr : Addr) | ldxAbsY (addr : Addr)
  | ldyImm (imm : Byte) | ldyZp (zp : Byte) | ldyZpX (zp : Byte) | ldyAbs (addr : Addr) | ldyAbsX (addr : Addr)
  | staZp (zp : Byte) | staZpX (zp : Byte) | staAbs (addr : Addr) | staAbsX (addr : Addr) | staAbsY (addr : Addr)
  | staIndX (zp : Byte) | staIndY (zp : Byte)
  | stxZp (zp : Byte) | stxZpY (zp : Byte) | stxAbs (addr : Addr)
  | styZp (zp : Byte) | styZpX (zp : Byte) | styAbs (addr : Addr)
  | tax
  | tay
  | tsx
  | txa
  | txs
  | tya
  -- arithmetic, logic, compare, increment (42)
  | adcImm (imm : Byte) | adcZp (zp : Byte) | adcZpX (zp : Byte) | adcAbs (addr : Addr) | adcAbsX (addr : Addr)
  | adcAbsY (addr : Addr) | adcIndX (zp : Byte) | adcIndY (zp : Byte)
  | sbcImm (imm : Byte) | sbcZp (zp : Byte) | sbcZpX (zp : Byte) | sbcAbs (addr : Addr) | sbcAbsX (addr : Addr)
  | sbcAbsY (addr : Addr) | sbcIndX (zp : Byte) | sbcIndY (zp : Byte)
  | andImm (imm : Byte) | andZp (zp : Byte) | andZpX (zp : Byte) | andAbs (addr : Addr) | andAbsX (addr : Addr)
  | andAbsY (addr : Addr) | andIndX (zp : Byte) | andIndY (zp : Byte)
  | oraImm (imm : Byte) | oraZp (zp : Byte) | oraZpX (zp : Byte) | oraAbs (addr : Addr) | oraAbsX (addr : Addr)
  | oraAbsY (addr : Addr) | oraIndX (zp : Byte) | oraIndY (zp : Byte)
  | eorImm (imm : Byte) | eorZp (zp : Byte) | eorZpX (zp : Byte) | eorAbs (addr : Addr) | eorAbsX (addr : Addr)
  | eorAbsY (addr : Addr) | eorIndX (zp : Byte) | eorIndY (zp : Byte)
  | cmpImm (imm : Byte) | cmpZp (zp : Byte) | cmpZpX (zp : Byte) | cmpAbs (addr : Addr) | cmpAbsX (addr : Addr)
  | cmpAbsY (addr : Addr) | cmpIndX (zp : Byte) | cmpIndY (zp : Byte)
  | cpxImm (imm : Byte) | cpxZp (zp : Byte) | cpxAbs (addr : Addr)
  | cpyImm (imm : Byte) | cpyZp (zp : Byte) | cpyAbs (addr : Addr)
  | bitZp (zp : Byte) | bitAbs (addr : Addr)
  | incZp (zp : Byte) | incZpX (zp : Byte) | incAbs (addr : Addr) | incAbsX (addr : Addr)
  | decZp (zp : Byte) | decZpX (zp : Byte) | decAbs (addr : Addr) | decAbsX (addr : Addr)
  | inx
  | iny
  | dex
  | dey
  -- shift and rotate (43)
  | aslA | aslZp (zp : Byte) | aslZpX (zp : Byte) | aslAbs (addr : Addr) | aslAbsX (addr : Addr)
  | lsrA | lsrZp (zp : Byte) | lsrZpX (zp : Byte) | lsrAbs (addr : Addr) | lsrAbsX (addr : Addr)
  | rolA | rolZp (zp : Byte) | rolZpX (zp : Byte) | rolAbs (addr : Addr) | rolAbsX (addr : Addr)
  | rorA | rorZp (zp : Byte) | rorZpX (zp : Byte) | rorAbs (addr : Addr) | rorAbsX (addr : Addr)
  -- control transfer (44)
  | bcc (off : Byte)
  | bcs (off : Byte)
  | beq (off : Byte)
  | bmi (off : Byte)
  | bne (off : Byte)
  | bpl (off : Byte)
  | bvc (off : Byte)
  | bvs (off : Byte)
  | jmpAbs (addr : Addr) | jmpInd (ptr : Addr)
  | jsr (addr : Addr)
  | rts
  | brk
  | rti
  -- stack, flags, no-op (45)
  | pha
  | php
  | pla
  | plp
  | clc
  | cld
  | cli
  | clv
  | sec
  | sed
  | sei
  | nop
  deriving DecidableEq, Repr

end Sys2Proof
end

