-- ==== Sys2Proof/Config.lean ====
section
/-! DEFINITION. What is fixed for a machine and what the spec leaves open: the open parameters of 00_scope.md rule R11,
the cartridge image of 10_state.md rule R80, and the free values. -/

namespace Sys2Proof

/-- `draw()` of 00_scope.md rule R17: the byte the n-th read of open bus gives. A FREE VALUE: it has no body, so nothing
can be proved of it, and what holds of it holds for every byte (log 1). -/
opaque Config.draw : Nat → Byte

/-- At least as many bytes as one driver step can draw: three reads of the fetch, two of operand bytes or of a pointer in
memory, and the 256 of an OAM DMA. The model's own, with the counter it moves (log 1). -/
def Config.drawsPerStep : Nat := 261

/-- SYSTEM_PALETTE of R11 and 60_exceptions.md rule R379: the colour a 9-bit pixel is shown as. Open, and read by no rule;
its colours are numbered by natural numbers (log 15). -/
opaque Config.systemPalette : Pixel → Nat

/-- DOTS_PER_CYCLE, the PPU dots per CPU cycle, owned by the driver (R10; 60_exceptions.md rule R412). -/
def Config.dotsPerCycle : Nat := 3

/-- BRK_POLICY of R11: what BRK does (44_control_transfer.md rule R292). -/
inductive BrkPolicy where
  | vector | halt
  deriving DecidableEq, Repr

/-- The open parameters of R11 that a running machine reads. A machine carries them unchanged (log 2). -/
structure Params where
  /-- ODD_FRAME_SKIP (60_exceptions.md rule R361) -/
  oddFrameSkip : Bool
  /-- PUSH_B_ON_HW_INTERRUPT (10_state.md rule R37) -/
  pushBOnHwInterrupt : Bool
  /-- BRK_POLICY (44_control_transfer.md rule R292) -/
  brkPolicy : BrkPolicy
  /-- OAM_DMA_CYCLES (20_memory.md rule R113) -/
  oamDmaCycles : Nat
  deriving DecidableEq, Repr

/-- The defaults R11 gives. -/
def Params.default : Params :=
  { oddFrameSkip := true, pushBOnHwInterrupt := true, brkPolicy := .vector, oamDmaCycles := 513 }

/-- The open power-on contents of R11. An array is given by its first bytes; what it does not give is 0 (log 3, log 4). -/
structure InitParams where
  a : Byte
  x : Byte
  y : Byte
  ram : List Byte
  vram : List Byte
  palette : List Byte
  oam : List Byte
  deriving DecidableEq, Repr

/-- The values the spec's own test vectors use: 0 everywhere (R11). -/
def InitParams.zero : InitParams :=
  { a := 0, x := 0, y := 0, ram := [], vram := [], palette := [], oam := [] }

/-- The nametable layout an image may ask for; only the first two are supported (20_memory.md rule R120). -/
inductive Layout where
  | horizontal | vertical | other
  deriving DecidableEq, Repr

/-- A cartridge image as the file-loading collaborator hands it over (R80), before it is checked. -/
structure CartridgeImage where
  prg : List Byte
  chr : List Byte
  mapper : Nat
  layout : Layout
  deriving DecidableEq, Repr

end Sys2Proof
end

