-- ==== Sys2Proof/WellFormed.lean ====
section
/-! DEFINITION. Well-formedness. An instruction's operands have exactly their encoded widths, and every operand value is
legal (30_encoding.md rule R171), so every instruction is well formed by its type. What is checked is the cartridge image
(20_memory.md rule R120). -/

namespace Sys2Proof

/-- Every term of Instr is a legal instruction: any 8-bit value is a legal operand (R171). -/
def Instr.wellFormed (_ : Instr) : Bool := true

/-- Why a cartridge image is refused (R120; 60_exceptions.md rules R320, R323). -/
inductive ConstructionError where
  | unsupportedMapper (mapper : Nat)
  | badPrgSize (size : Nat)
  | badChrSize (size : Nat)
  | unsupportedMirroring
  deriving DecidableEq, Repr

/-- The size of a PRG bank (00_scope.md rule R10). -/
def prgBankSize : Nat := 16384

/-- The size of CHR (00_scope.md rule R10). -/
def chrSize : Nat := 8192

/-- The first of the four checks of R120 that an image fails, in the order R120 gives; none when it is accepted. -/
def CartridgeImage.check (c : CartridgeImage) : Option ConstructionError :=
  if c.mapper ≠ 0 then some (.unsupportedMapper c.mapper)
  else if c.prg.length ≠ prgBankSize ∧ c.prg.length ≠ 2 * prgBankSize then some (.badPrgSize c.prg.length)
  else if c.chr.length ≠ chrSize then some (.badChrSize c.chr.length)
  else if c.layout = .other then some .unsupportedMirroring
  else none

/-- An image is accepted exactly when all four checks pass (R120). -/
def CartridgeImage.wellFormed (c : CartridgeImage) : Bool := c.check == none

end Sys2Proof
end

