-- ==== Sys2Proof/Decode.lean ====
section
/-! DEFINITION. Decoding and encoding (30_encoding.md rules R160 to R174, 40_addressing.md rule R191).
The decoder reads the opcode map of R163 as a table; a byte that is not in it is refused by name. The encoder is written
from the same map, constructor by constructor. -/

namespace Sys2Proof

/-- The 16-bit value `hi:lo` (00_scope.md rule R13). -/
def hiLo (hi lo : Byte) : Addr := hi ++ lo

/-- `lo(a)` of R13. -/
def loByte (a : Addr) : Byte := a.setWidth 8

/-- `hi(a)` of R13. -/
def hiByte (a : Addr) : Byte := (a >>> 8).setWidth 8

/-- The operand bytes that follow the opcode byte, by mode (R160). -/
def Mode.operandBytes : Mode → Nat
  | .implied | .accumulator => 0
  | .immediate | .zeroPage | .zeroPageX | .zeroPageY | .indexedIndirectX | .indirectIndexedY | .relative => 1
  | .absolute | .absoluteX | .absoluteY | .indirect => 2

/-- The length of an instruction in bytes, by mode (R160, R162). -/
def Mode.length (m : Mode) : Nat := m.operandBytes + 1

/-- A row of the opcode map: the opcode byte, its mode, and the instruction its operand bytes make
(`b1` at PC+1, `b2` at PC+2; a byte the mode does not have is not looked at). -/
structure OpRow where
  opcode : Byte
  mode   : Mode
  instr  : Byte → Byte → Instr

/-- Row 0x of the opcode map of R163. -/
def opRows0x : List OpRow := [
  ⟨0x00#8, .implied, fun _ _ => .brk⟩,
  ⟨0x01#8, .indexedIndirectX, fun b1 _ => .oraIndX b1⟩,
  ⟨0x05#8, .zeroPage, fun b1 _ => .oraZp b1⟩,
  ⟨0x06#8, .zeroPage, fun b1 _ => .aslZp b1⟩,
  ⟨0x08#8, .implied, fun _ _ => .php⟩,
  ⟨0x09#8, .immediate, fun b1 _ => .oraImm b1⟩,
  ⟨0x0A#8, .accumulator, fun _ _ => .aslA⟩,
  ⟨0x0D#8, .absolute, fun b1 b2 => .oraAbs (hiLo b2 b1)⟩,
  ⟨0x0E#8, .absolute, fun b1 b2 => .aslAbs (hiLo b2 b1)⟩]

/-- Row 1x of the opcode map of R163. -/
def opRows1x : List OpRow := [
  ⟨0x10#8, .relative, fun b1 _ => .bpl b1⟩,
  ⟨0x11#8, .indirectIndexedY, fun b1 _ => .oraIndY b1⟩,
  ⟨0x15#8, .zeroPageX, fun b1 _ => .oraZpX b1⟩,
  ⟨0x16#8, .zeroPageX, fun b1 _ => .aslZpX b1⟩,
  ⟨0x18#8, .implied, fun _ _ => .clc⟩,
  ⟨0x19#8, .absoluteY, fun b1 b2 => .oraAbsY (hiLo b2 b1)⟩,
  ⟨0x1D#8, .absoluteX, fun b1 b2 => .oraAbsX (hiLo b2 b1)⟩,
  ⟨0x1E#8, .absoluteX, fun b1 b2 => .aslAbsX (hiLo b2 b1)⟩]

/-- Row 2x of the opcode map of R163. -/
def opRows2x : List OpRow := [
  ⟨0x20#8, .absolute, fun b1 b2 => .jsr (hiLo b2 b1)⟩,
  ⟨0x21#8, .indexedIndirectX, fun b1 _ => .andIndX b1⟩,
  ⟨0x24#8, .zeroPage, fun b1 _ => .bitZp b1⟩,
  ⟨0x25#8, .zeroPage, fun b1 _ => .andZp b1⟩,
  ⟨0x26#8, .zeroPage, fun b1 _ => .rolZp b1⟩,
  ⟨0x28#8, .implied, fun _ _ => .plp⟩,
  ⟨0x29#8, .immediate, fun b1 _ => .andImm b1⟩,
  ⟨0x2A#8, .accumulator, fun _ _ => .rolA⟩,
  ⟨0x2C#8, .absolute, fun b1 b2 => .bitAbs (hiLo b2 b1)⟩,
  ⟨0x2D#8, .absolute, fun b1 b2 => .andAbs (hiLo b2 b1)⟩,
  ⟨0x2E#8, .absolute, fun b1 b2 => .rolAbs (hiLo b2 b1)⟩]

/-- Row 3x of the opcode map of R163. -/
def opRows3x : List OpRow := [
  ⟨0x30#8, .relative, fun b1 _ => .bmi b1⟩,
  ⟨0x31#8, .indirectIndexedY, fun b1 _ => .andIndY b1⟩,
  ⟨0x35#8, .zeroPageX, fun b1 _ => .andZpX b1⟩,
  ⟨0x36#8, .zeroPageX, fun b1 _ => .rolZpX b1⟩,
  ⟨0x38#8, .implied, fun _ _ => .sec⟩,
  ⟨0x39#8, .absoluteY, fun b1 b2 => .andAbsY (hiLo b2 b1)⟩,
  ⟨0x3D#8, .absoluteX, fun b1 b2 => .andAbsX (hiLo b2 b1)⟩,
  ⟨0x3E#8, .absoluteX, fun b1 b2 => .rolAbsX (hiLo b2 b1)⟩]

/-- Row 4x of the opcode map of R163. -/
def opRows4x : List OpRow := [
  ⟨0x40#8, .implied, fun _ _ => .rti⟩,
  ⟨0x41#8, .indexedIndirectX, fun b1 _ => .eorIndX b1⟩,
  ⟨0x45#8, .zeroPage, fun b1 _ => .eorZp b1⟩,
  ⟨0x46#8, .zeroPage, fun b1 _ => .lsrZp b1⟩,
  ⟨0x48#8, .implied, fun _ _ => .pha⟩,
  ⟨0x49#8, .immediate, fun b1 _ => .eorImm b1⟩,
  ⟨0x4A#8, .accumulator, fun _ _ => .lsrA⟩,
  ⟨0x4C#8, .absolute, fun b1 b2 => .jmpAbs (hiLo b2 b1)⟩,
  ⟨0x4D#8, .absolute, fun b1 b2 => .eorAbs (hiLo b2 b1)⟩,
  ⟨0x4E#8, .absolute, fun b1 b2 => .lsrAbs (hiLo b2 b1)⟩]

/-- Row 5x of the opcode map of R163. -/
def opRows5x : List OpRow := [
  ⟨0x50#8, .relative, fun b1 _ => .bvc b1⟩,
  ⟨0x51#8, .indirectIndexedY, fun b1 _ => .eorIndY b1⟩,
  ⟨0x55#8, .zeroPageX, fun b1 _ => .eorZpX b1⟩,
  ⟨0x56#8, .zeroPageX, fun b1 _ => .lsrZpX b1⟩,
  ⟨0x58#8, .implied, fun _ _ => .cli⟩,
  ⟨0x59#8, .absoluteY, fun b1 b2 => .eorAbsY (hiLo b2 b1)⟩,
  ⟨0x5D#8, .absoluteX, fun b1 b2 => .eorAbsX (hiLo b2 b1)⟩,
  ⟨0x5E#8, .absoluteX, fun b1 b2 => .lsrAbsX (hiLo b2 b1)⟩]

/-- Row 6x of the opcode map of R163. -/
def opRows6x : List OpRow := [
  ⟨0x60#8, .implied, fun _ _ => .rts⟩,
  ⟨0x61#8, .indexedIndirectX, fun b1 _ => .adcIndX b1⟩,
  ⟨0x65#8, .zeroPage, fun b1 _ => .adcZp b1⟩,
  ⟨0x66#8, .zeroPage, fun b1 _ => .rorZp b1⟩,
  ⟨0x68#8, .implied, fun _ _ => .pla⟩,
  ⟨0x69#8, .immediate, fun b1 _ => .adcImm b1⟩,
  ⟨0x6A#8, .accumulator, fun _ _ => .rorA⟩,
  ⟨0x6C#8, .indirect, fun b1 b2 => .jmpInd (hiLo b2 b1)⟩,
  ⟨0x6D#8, .absolute, fun b1 b2 => .adcAbs (hiLo b2 b1)⟩,
  ⟨0x6E#8, .absolute, fun b1 b2 => .rorAbs (hiLo b2 b1)⟩]

/-- Row 7x of the opcode map of R163. -/
def opRows7x : List OpRow := [
  ⟨0x70#8, .relative, fun b1 _ => .bvs b1⟩,
  ⟨0x71#8, .indirectIndexedY, fun b1 _ => .adcIndY b1⟩,
  ⟨0x75#8, .zeroPageX, fun b1 _ => .adcZpX b1⟩,
  ⟨0x76#8, .zeroPageX, fun b1 _ => .rorZpX b1⟩,
  ⟨0x78#8, .implied, fun _ _ => .sei⟩,
  ⟨0x79#8, .absoluteY, fun b1 b2 => .adcAbsY (hiLo b2 b1)⟩,
  ⟨0x7D#8, .absoluteX, fun b1 b2 => .adcAbsX (hiLo b2 b1)⟩,
  ⟨0x7E#8, .absoluteX, fun b1 b2 => .rorAbsX (hiLo b2 b1)⟩]

/-- Row 8x of the opcode map of R163. -/
def opRows8x : List OpRow := [
  ⟨0x81#8, .indexedIndirectX, fun b1 _ => .staIndX b1⟩,
  ⟨0x84#8, .zeroPage, fun b1 _ => .styZp b1⟩,
  ⟨0x85#8, .zeroPage, fun b1 _ => .staZp b1⟩,
  ⟨0x86#8, .zeroPage, fun b1 _ => .stxZp b1⟩,
  ⟨0x88#8, .implied, fun _ _ => .dey⟩,
  ⟨0x8A#8, .implied, fun _ _ => .txa⟩,
  ⟨0x8C#8, .absolute, fun b1 b2 => .styAbs (hiLo b2 b1)⟩,
  ⟨0x8D#8, .absolute, fun b1 b2 => .staAbs (hiLo b2 b1)⟩,
  ⟨0x8E#8, .absolute, fun b1 b2 => .stxAbs (hiLo b2 b1)⟩]

/-- Row 9x of the opcode map of R163. -/
def opRows9x : List OpRow := [
  ⟨0x90#8, .relative, fun b1 _ => .bcc b1⟩,
  ⟨0x91#8, .indirectIndexedY, fun b1 _ => .staIndY b1⟩,
  ⟨0x94#8, .zeroPageX, fun b1 _ => .styZpX b1⟩,
  ⟨0x95#8, .zeroPageX, fun b1 _ => .staZpX b1⟩,
  ⟨0x96#8, .zeroPageY, fun b1 _ => .stxZpY b1⟩,
  ⟨0x98#8, .implied, fun _ _ => .tya⟩,
  ⟨0x99#8, .absoluteY, fun b1 b2 => .staAbsY (hiLo b2 b1)⟩,
  ⟨0x9A#8, .implied, fun _ _ => .txs⟩,
  ⟨0x9D#8, .absoluteX, fun b1 b2 => .staAbsX (hiLo b2 b1)⟩]

/-- Row Ax of the opcode map of R163. -/
def opRowsAx : List OpRow := [
  ⟨0xA0#8, .immediate, fun b1 _ => .ldyImm b1⟩,
  ⟨0xA1#8, .indexedIndirectX, fun b1 _ => .ldaIndX b1⟩,
  ⟨0xA2#8, .immediate, fun b1 _ => .ldxImm b1⟩,
  ⟨0xA4#8, .zeroPage, fun b1 _ => .ldyZp b1⟩,
  ⟨0xA5#8, .zeroPage, fun b1 _ => .ldaZp b1⟩,
  ⟨0xA6#8, .zeroPage, fun b1 _ => .ldxZp b1⟩,
  ⟨0xA8#8, .implied, fun _ _ => .tay⟩,
  ⟨0xA9#8, .immediate, fun b1 _ => .ldaImm b1⟩,
  ⟨0xAA#8, .implied, fun _ _ => .tax⟩,
  ⟨0xAC#8, .absolute, fun b1 b2 => .ldyAbs (hiLo b2 b1)⟩,
  ⟨0xAD#8, .absolute, fun b1 b2 => .ldaAbs (hiLo b2 b1)⟩,
  ⟨0xAE#8, .absolute, fun b1 b2 => .ldxAbs (hiLo b2 b1)⟩]

/-- Row Bx of the opcode map of R163. -/
def opRowsBx : List OpRow := [
  ⟨0xB0#8, .relative, fun b1 _ => .bcs b1⟩,
  ⟨0xB1#8, .indirectIndexedY, fun b1 _ => .ldaIndY b1⟩,
  ⟨0xB4#8, .zeroPageX, fun b1 _ => .ldyZpX b1⟩,
  ⟨0xB5#8, .zeroPageX, fun b1 _ => .ldaZpX b1⟩,
  ⟨0xB6#8, .zeroPageY, fun b1 _ => .ldxZpY b1⟩,
  ⟨0xB8#8, .implied, fun _ _ => .clv⟩,
  ⟨0xB9#8, .absoluteY, fun b1 b2 => .ldaAbsY (hiLo b2 b1)⟩,
  ⟨0xBA#8, .implied, fun _ _ => .tsx⟩,
  ⟨0xBC#8, .absoluteX, fun b1 b2 => .ldyAbsX (hiLo b2 b1)⟩,
  ⟨0xBD#8, .absoluteX, fun b1 b2 => .ldaAbsX (hiLo b2 b1)⟩,
  ⟨0xBE#8, .absoluteY, fun b1 b2 => .ldxAbsY (hiLo b2 b1)⟩]

/-- Row Cx of the opcode map of R163. -/
def opRowsCx : List OpRow := [
  ⟨0xC0#8, .immediate, fun b1 _ => .cpyImm b1⟩,
  ⟨0xC1#8, .indexedIndirectX, fun b1 _ => .cmpIndX b1⟩,
  ⟨0xC4#8, .zeroPage, fun b1 _ => .cpyZp b1⟩,
  ⟨0xC5#8, .zeroPage, fun b1 _ => .cmpZp b1⟩,
  ⟨0xC6#8, .zeroPage, fun b1 _ => .decZp b1⟩,
  ⟨0xC8#8, .implied, fun _ _ => .iny⟩,
  ⟨0xC9#8, .immediate, fun b1 _ => .cmpImm b1⟩,
  ⟨0xCA#8, .implied, fun _ _ => .dex⟩,
  ⟨0xCC#8, .absolute, fun b1 b2 => .cpyAbs (hiLo b2 b1)⟩,
  ⟨0xCD#8, .absolute, fun b1 b2 => .cmpAbs (hiLo b2 b1)⟩,
  ⟨0xCE#8, .absolute, fun b1 b2 => .decAbs (hiLo b2 b1)⟩]

/-- Row Dx of the opcode map of R163. -/
def opRowsDx : List OpRow := [
  ⟨0xD0#8, .relative, fun b1 _ => .bne b1⟩,
  ⟨0xD1#8, .indirectIndexedY, fun b1 _ => .cmpIndY b1⟩,
  ⟨0xD5#8, .zeroPageX, fun b1 _ => .cmpZpX b1⟩,
  ⟨0xD6#8, .zeroPageX, fun b1 _ => .decZpX b1⟩,
  ⟨0xD8#8, .implied, fun _ _ => .cld⟩,
  ⟨0xD9#8, .absoluteY, fun b1 b2 => .cmpAbsY (hiLo b2 b1)⟩,
  ⟨0xDD#8, .absoluteX, fun b1 b2 => .cmpAbsX (hiLo b2 b1)⟩,
  ⟨0xDE#8, .absoluteX, fun b1 b2 => .decAbsX (hiLo b2 b1)⟩]

/-- Row Ex of the opcode map of R163. -/
def opRowsEx : List OpRow := [
  ⟨0xE0#8, .immediate, fun b1 _ => .cpxImm b1⟩,
  ⟨0xE1#8, .indexedIndirectX, fun b1 _ => .sbcIndX b1⟩,
  ⟨0xE4#8, .zeroPage, fun b1 _ => .cpxZp b1⟩,
  ⟨0xE5#8, .zeroPage, fun b1 _ => .sbcZp b1⟩,
  ⟨0xE6#8, .zeroPage, fun b1 _ => .incZp b1⟩,
  ⟨0xE8#8, .implied, fun _ _ => .inx⟩,
  ⟨0xE9#8, .immediate, fun b1 _ => .sbcImm b1⟩,
  ⟨0xEA#8, .implied, fun _ _ => .nop⟩,
  ⟨0xEC#8, .absolute, fun b1 b2 => .cpxAbs (hiLo b2 b1)⟩,
  ⟨0xED#8, .absolute, fun b1 b2 => .sbcAbs (hiLo b2 b1)⟩,
  ⟨0xEE#8, .absolute, fun b1 b2 => .incAbs (hiLo b2 b1)⟩]

/-- Row Fx of the opcode map of R163. -/
def opRowsFx : List OpRow := [
  ⟨0xF0#8, .relative, fun b1 _ => .beq b1⟩,
  ⟨0xF1#8, .indirectIndexedY, fun b1 _ => .sbcIndY b1⟩,
  ⟨0xF5#8, .zeroPageX, fun b1 _ => .sbcZpX b1⟩,
  ⟨0xF6#8, .zeroPageX, fun b1 _ => .incZpX b1⟩,
  ⟨0xF8#8, .implied, fun _ _ => .sed⟩,
  ⟨0xF9#8, .absoluteY, fun b1 b2 => .sbcAbsY (hiLo b2 b1)⟩,
  ⟨0xFD#8, .absoluteX, fun b1 b2 => .sbcAbsX (hiLo b2 b1)⟩,
  ⟨0xFE#8, .absoluteX, fun b1 b2 => .incAbsX (hiLo b2 b1)⟩]

/-- The opcode map: the 151 defined opcodes (R163, R165). -/
def opTable : List OpRow :=
  opRows0x ++ opRows1x ++ opRows2x ++ opRows3x ++ opRows4x ++ opRows5x ++ opRows6x ++ opRows7x ++
  opRows8x ++ opRows9x ++ opRowsAx ++ opRowsBx ++ opRowsCx ++ opRowsDx ++ opRowsEx ++ opRowsFx

/-- `decode(op)` of 40_addressing.md rule R191: the row of an opcode byte, none for the 105 undefined bytes (R170). -/
def lookupOp (op : Byte) : Option OpRow := opTable.find? (fun r => r.opcode == op)

/-- Why a byte sequence is no instruction. -/
inductive DecodeReject where
  /-- the opcode byte is one of the 105 undefined ones (R170) -/
  | undefinedOpcode (op : Byte)
  /-- the bytes end before the operands of this opcode -/
  | truncated (op : Byte)
  /-- there is no byte at all -/
  | noBytes
  deriving DecidableEq, Repr

/-- The instruction at the head of a byte sequence, and the rest; total on any bytes (R160, R162). -/
def decode : List Byte → Except DecodeReject (Instr × List Byte)
  | [] => .error .noBytes
  | op :: rest =>
    match lookupOp op with
    | none => .error (.undefinedOpcode op)
    | some row =>
      match row.mode.operandBytes, rest with
      | 0, rest => .ok (row.instr 0#8 0#8, rest)
      | 1, b1 :: rest => .ok (row.instr b1 0#8, rest)
      | 2, b1 :: b2 :: rest => .ok (row.instr b1 b2, rest)
      | _, _ => .error (.truncated op)

/-- The bytes of an instruction, lowest address first (R160, R161, R163). -/
def encode : Instr → List Byte
  | .ldaImm imm => [0xA9#8, imm]
  | .ldaZp zp => [0xA5#8, zp]
  | .ldaZpX zp => [0xB5#8, zp]
  | .ldaAbs addr => [0xAD#8, loByte addr, hiByte addr]
  | .ldaAbsX addr => [0xBD#8, loByte addr, hiByte addr]
  | .ldaAbsY addr => [0xB9#8, loByte addr, hiByte addr]
  | .ldaIndX zp => [0xA1#8, zp]
  | .ldaIndY zp => [0xB1#8, zp]
  | .ldxImm imm => [0xA2#8, imm]
  | .ldxZp zp => [0xA6#8, zp]
  | .ldxZpY zp => [0xB6#8, zp]
  | .ldxAbs addr => [0xAE#8, loByte addr, hiByte addr]
  | .ldxAbsY addr => [0xBE#8, loByte addr, hiByte addr]
  | .ldyImm imm => [0xA0#8, imm]
  | .ldyZp zp => [0xA4#8, zp]
  | .ldyZpX zp => [0xB4#8, zp]
  | .ldyAbs addr => [0xAC#8, loByte addr, hiByte addr]
  | .ldyAbsX addr => [0xBC#8, loByte addr, hiByte addr]
  | .staZp zp => [0x85#8, zp]
  | .staZpX zp => [0x95#8, zp]
  | .staAbs addr => [0x8D#8, loByte addr, hiByte addr]
  | .staAbsX addr => [0x9D#8, loByte addr, hiByte addr]
  | .staAbsY addr => [0x99#8, loByte addr, hiByte addr]
  | .staIndX zp => [0x81#8, zp]
  | .staIndY zp => [0x91#8, zp]
  | .stxZp zp => [0x86#8, zp]
  | .stxZpY zp => [0x96#8, zp]
  | .stxAbs addr => [0x8E#8, loByte addr, hiByte addr]
  | .styZp zp => [0x84#8, zp]
  | .styZpX zp => [0x94#8, zp]
  | .styAbs addr => [0x8C#8, loByte addr, hiByte addr]
  | .tax => [0xAA#8]
  | .tay => [0xA8#8]
  | .tsx => [0xBA#8]
  | .txa => [0x8A#8]
  | .txs => [0x9A#8]
  | .tya => [0x98#8]
  | .adcImm imm => [0x69#8, imm]
  | .adcZp zp => [0x65#8, zp]
  | .adcZpX zp => [0x75#8, zp]
  | .adcAbs addr => [0x6D#8, loByte addr, hiByte addr]
  | .adcAbsX addr => [0x7D#8, loByte addr, hiByte addr]
  | .adcAbsY addr => [0x79#8, loByte addr, hiByte addr]
  | .adcIndX zp => [0x61#8, zp]
  | .adcIndY zp => [0x71#8, zp]
  | .sbcImm imm => [0xE9#8, imm]
  | .sbcZp zp => [0xE5#8, zp]
  | .sbcZpX zp => [0xF5#8, zp]
  | .sbcAbs addr => [0xED#8, loByte addr, hiByte addr]
  | .sbcAbsX addr => [0xFD#8, loByte addr, hiByte addr]
  | .sbcAbsY addr => [0xF9#8, loByte addr, hiByte addr]
  | .sbcIndX zp => [0xE1#8, zp]
  | .sbcIndY zp => [0xF1#8, zp]
  | .andImm imm => [0x29#8, imm]
  | .andZp zp => [0x25#8, zp]
  | .andZpX zp => [0x35#8, zp]
  | .andAbs addr => [0x2D#8, loByte addr, hiByte addr]
  | .andAbsX addr => [0x3D#8, loByte addr, hiByte addr]
  | .andAbsY addr => [0x39#8, loByte addr, hiByte addr]
  | .andIndX zp => [0x21#8, zp]
  | .andIndY zp => [0x31#8, zp]
  | .oraImm imm => [0x09#8, imm]
  | .oraZp zp => [0x05#8, zp]
  | .oraZpX zp => [0x15#8, zp]
  | .oraAbs addr => [0x0D#8, loByte addr, hiByte addr]
  | .oraAbsX addr => [0x1D#8, loByte addr, hiByte addr]
  | .oraAbsY addr => [0x19#8, loByte addr, hiByte addr]
  | .oraIndX zp => [0x01#8, zp]
  | .oraIndY zp => [0x11#8, zp]
  | .eorImm imm => [0x49#8, imm]
  | .eorZp zp => [0x45#8, zp]
  | .eorZpX zp => [0x55#8, zp]
  | .eorAbs addr => [0x4D#8, loByte addr, hiByte addr]
  | .eorAbsX addr => [0x5D#8, loByte addr, hiByte addr]
  | .eorAbsY addr => [0x59#8, loByte addr, hiByte addr]
  | .eorIndX zp => [0x41#8, zp]
  | .eorIndY zp => [0x51#8, zp]
  | .cmpImm imm => [0xC9#8, imm]
  | .cmpZp zp => [0xC5#8, zp]
  | .cmpZpX zp => [0xD5#8, zp]
  | .cmpAbs addr => [0xCD#8, loByte addr, hiByte addr]
  | .cmpAbsX addr => [0xDD#8, loByte addr, hiByte addr]
  | .cmpAbsY addr => [0xD9#8, loByte addr, hiByte addr]
  | .cmpIndX zp => [0xC1#8, zp]
  | .cmpIndY zp => [0xD1#8, zp]
  | .cpxImm imm => [0xE0#8, imm]
  | .cpxZp zp => [0xE4#8, zp]
  | .cpxAbs addr => [0xEC#8, loByte addr, hiByte addr]
  | .cpyImm imm => [0xC0#8, imm]
  | .cpyZp zp => [0xC4#8, zp]
  | .cpyAbs addr => [0xCC#8, loByte addr, hiByte addr]
  | .bitZp zp => [0x24#8, zp]
  | .bitAbs addr => [0x2C#8, loByte addr, hiByte addr]
  | .incZp zp => [0xE6#8, zp]
  | .incZpX zp => [0xF6#8, zp]
  | .incAbs addr => [0xEE#8, loByte addr, hiByte addr]
  | .incAbsX addr => [0xFE#8, loByte addr, hiByte addr]
  | .decZp zp => [0xC6#8, zp]
  | .decZpX zp => [0xD6#8, zp]
  | .decAbs addr => [0xCE#8, loByte addr, hiByte addr]
  | .decAbsX addr => [0xDE#8, loByte addr, hiByte addr]
  | .inx => [0xE8#8]
  | .iny => [0xC8#8]
  | .dex => [0xCA#8]
  | .dey => [0x88#8]
  | .aslA => [0x0A#8]
  | .aslZp zp => [0x06#8, zp]
  | .aslZpX zp => [0x16#8, zp]
  | .aslAbs addr => [0x0E#8, loByte addr, hiByte addr]
  | .aslAbsX addr => [0x1E#8, loByte addr, hiByte addr]
  | .lsrA => [0x4A#8]
  | .lsrZp zp => [0x46#8, zp]
  | .lsrZpX zp => [0x56#8, zp]
  | .lsrAbs addr => [0x4E#8, loByte addr, hiByte addr]
  | .lsrAbsX addr => [0x5E#8, loByte addr, hiByte addr]
  | .rolA => [0x2A#8]
  | .rolZp zp => [0x26#8, zp]
  | .rolZpX zp => [0x36#8, zp]
  | .rolAbs addr => [0x2E#8, loByte addr, hiByte addr]
  | .rolAbsX addr => [0x3E#8, loByte addr, hiByte addr]
  | .rorA => [0x6A#8]
  | .rorZp zp => [0x66#8, zp]
  | .rorZpX zp => [0x76#8, zp]
  | .rorAbs addr => [0x6E#8, loByte addr, hiByte addr]
  | .rorAbsX addr => [0x7E#8, loByte addr, hiByte addr]
  | .bcc off => [0x90#8, off]
  | .bcs off => [0xB0#8, off]
  | .beq off => [0xF0#8, off]
  | .bmi off => [0x30#8, off]
  | .bne off => [0xD0#8, off]
  | .bpl off => [0x10#8, off]
  | .bvc off => [0x50#8, off]
  | .bvs off => [0x70#8, off]
  | .jmpAbs addr => [0x4C#8, loByte addr, hiByte addr]
  | .jmpInd ptr => [0x6C#8, loByte ptr, hiByte ptr]
  | .jsr addr => [0x20#8, loByte addr, hiByte addr]
  | .rts => [0x60#8]
  | .brk => [0x00#8]
  | .rti => [0x40#8]
  | .pha => [0x48#8]
  | .php => [0x08#8]
  | .pla => [0x68#8]
  | .plp => [0x28#8]
  | .clc => [0x18#8]
  | .cld => [0xD8#8]
  | .cli => [0x58#8]
  | .clv => [0xB8#8]
  | .sec => [0x38#8]
  | .sed => [0xF8#8]
  | .sei => [0x78#8]
  | .nop => [0xEA#8]

/-- The byte `k` of an instruction whose bits are `w`, numbered as spec/opcode_table.json numbers them. -/
def tableByte (w k : Nat) : Byte := BitVec.ofNat 8 (w / 256 ^ k)

/-- The three bytes the machine would find in memory for an instruction of `nbits` bits `w`: the first byte lowest, and
zeros above `nbits` (R160; no instruction is longer than three bytes, R162). -/
def tableBytes (nbits w : Nat) : List Byte :=
  let w := w % 2 ^ nbits
  [tableByte w 0, tableByte w 1, tableByte w 2]

/-- The instruction the decoder reads from an instruction of `nbits` bits `w`. -/
def decodeTableWord (nbits w : Nat) : Option Instr :=
  match decode (tableBytes nbits w) with
  | .ok (i, _) => some i
  | .error _ => none

end Sys2Proof
end

