-- ==== Sys2Proof/Machine/State.lean ====
section
/-! DEFINITION. The state of the machine, as plain data (10_state.md), the reasons a step can stop, and the machine right
after reset (70_reset_and_hazards.md rules R430, R431). -/

namespace Sys2Proof.Machine

/-- A memory: a list of (address, value) pairs with strictly rising addresses and no value equal to what an unlisted
address holds. A memory of bytes is a list of Host.Cell (log 4, log 12). -/
abbrev Memory (α : Type) := List (Nat × α)

/-- The seven status flags of rule R36. -/
structure Flags where
  n : Bool
  v : Bool
  b : Bool
  d : Bool
  i : Bool
  z : Bool
  c : Bool
  deriving DecidableEq, Repr

/-- A 256 x 240 frame: line to (column to pixel); a line or pixel not listed is 0 (R71, log 12). -/
abbrev Frame := Memory (Memory Pixel)

/-- The picture unit: its registers (R51 to R53, R63), latches and counters (R54 to R58), pipeline (R59) and memories
(R68 to R71). -/
structure Ppu where
  ctrl : Byte
  mask : Byte
  vblank : Bool
  sprite0Hit : Bool
  spriteOverflow : Bool
  oamAddr : Byte
  v : VAddr
  t : VAddr
  x : BitVec 3
  w : Bool
  readBuffer : Byte
  scanline : Nat
  dot : Nat
  oddFrame : Bool
  nmiPending : Bool
  frameComplete : Bool
  ntLatch : Byte
  atLatch : BitVec 2
  ptLoLatch : Byte
  ptHiLatch : Byte
  shPatLo : BitVec 16
  shPatHi : BitVec 16
  shAttLo : BitVec 16
  shAttHi : BitVec 16
  vram : Memory Byte
  palette : Memory Colour
  oam : Memory Byte
  frame : Frame
  presented : Option Frame
  deriving DecidableEq, Repr

/-- The controller (R82). -/
structure Controller where
  buttons : Byte
  shift : Byte
  strobe : Bool
  deriving DecidableEq, Repr

/-- One or two 16 KiB PRG banks: the only sizes an accepted cartridge has (20_memory.md rule R120). -/
inductive PrgBanks where
  | one | two
  deriving DecidableEq, Repr

/-- The nametable layouts an accepted cartridge has (20_memory.md rules R120, R134). -/
inductive Mirroring where
  | horizontal | vertical
  deriving DecidableEq, Repr

/-- An accepted cartridge image (R80). Its mapper is 0 and its CHR is 8 KiB, by rule R120. -/
structure Cartridge where
  banks : PrgBanks
  prg : Memory Byte
  chr : Memory Byte
  mirroring : Mirroring
  deriving DecidableEq, Repr

/-- A fault: the machine stops, its state is as before the step (60_exceptions.md rules R320 to R325). -/
inductive Fault where
  /-- An opcode byte with no meaning was fetched at `addr` (R322). Raised by `fetch`. Safe: the console goes on (V9). -/
  | decodeError (addr : Addr)
  /-- A CPU access to an address in 0x4018 to 0x401F (R321). Raised by `read` and `write`. Safe: the console goes on (V11). -/
  | unmappedAddress (addr : Addr)
  deriving DecidableEq, Repr

/-- A refusal: the model has no meaning for the instruction. -/
inductive Refusal where
  /-- `exec` has no meaning for this mnemonic yet. Raised by `exec`'s refused arms only, of which there is none. Safe. -/
  | notModelled (mnemonic : String)
  deriving DecidableEq, Repr

/-- The status of the run (R41). -/
inductive RunStatus where
  | running
  | halted
  | faulted (reason : Fault)
  deriving DecidableEq, Repr

/-- The whole machine. `extraCycles` and `cycles` are the counts of 40_addressing.md rules R190 and R208 (log 8),
`draws` counts the reads of `draw()`, and a fault moves it past those of the faulted step (log 1), `cart` and `params` never change (R84, log 2, log 5). -/
structure State where
  a : Byte
  x : Byte
  y : Byte
  sp : Byte
  pc : Addr
  p : Flags
  nmiRequest : Bool
  status : RunStatus
  ram : Memory Byte
  ppu : Ppu
  ctl : Controller
  cyclesTotal : Nat
  irqLine : Bool
  frames : List Frame
  extraCycles : Nat
  cycles : Nat
  draws : Nat
  cart : Cartridge
  params : Params
  deriving DecidableEq, Repr

/-- The flags after reset: I set, every other flag clear (R430). -/
def Flags.reset : Flags :=
  { n := false, v := false, b := false, d := false, i := true, z := false, c := false }

/-- The picture unit after power-on with its memories all 0 (R431, log 4). -/
def Ppu.reset : Ppu :=
  { ctrl := 0, mask := 0, vblank := false, sprite0Hit := false, spriteOverflow := false, oamAddr := 0
    v := 0, t := 0, x := 0, w := false, readBuffer := 0, scanline := 0, dot := 0
    oddFrame := false, nmiPending := false, frameComplete := false
    ntLatch := 0, atLatch := 0, ptLoLatch := 0, ptHiLatch := 0
    shPatLo := 0, shPatHi := 0, shAttLo := 0, shAttHi := 0
    vram := [], palette := [], oam := [], frame := [], presented := none }

/-- The controller after power-on (R82). -/
def Controller.reset : Controller := { buttons := 0, shift := 0, strobe := false }

/-- The cartridge of `State.reset`: one PRG bank and CHR, all 0, vertical mirroring: no program (log 5). -/
def Cartridge.blank : Cartridge := { banks := .one, prg := [], chr := [], mirroring := .vertical }

/-- The machine right after power-on with the blank cartridge, the default parameters and power-on contents of 0 (R430,
R431, log 2 to log 5). The reset vector of that cartridge is 0x0000. `powerOn` gives it for any cartridge and contents. -/
def State.reset : State :=
  { a := 0, x := 0, y := 0, sp := 0xFD, pc := 0x0000, p := Flags.reset
    nmiRequest := false, status := .running, ram := [], ppu := Ppu.reset, ctl := Controller.reset
    cyclesTotal := 7, irqLine := false, frames := [], extraCycles := 0, cycles := 0, draws := 0
    cart := Cartridge.blank, params := Params.default }

-- The named updates: one field each.
def State.setA (s : State) (v : Byte) : State := { s with a := v }
def State.setX (s : State) (v : Byte) : State := { s with x := v }
def State.setY (s : State) (v : Byte) : State := { s with y := v }
def State.setSp (s : State) (v : Byte) : State := { s with sp := v }
def State.setPc (s : State) (v : Addr) : State := { s with pc := v }
def State.setP (s : State) (v : Flags) : State := { s with p := v }
def State.setNmiRequest (s : State) (v : Bool) : State := { s with nmiRequest := v }
def State.setStatus (s : State) (v : RunStatus) : State := { s with status := v }
def State.setRam (s : State) (v : Memory Byte) : State := { s with ram := v }
def State.setPpu (s : State) (v : Ppu) : State := { s with ppu := v }
def State.setCtl (s : State) (v : Controller) : State := { s with ctl := v }
def State.setCyclesTotal (s : State) (v : Nat) : State := { s with cyclesTotal := v }
def State.setIrqLine (s : State) (v : Bool) : State := { s with irqLine := v }
def State.setFrames (s : State) (v : List Frame) : State := { s with frames := v }
def State.setExtraCycles (s : State) (v : Nat) : State := { s with extraCycles := v }
def State.setCycles (s : State) (v : Nat) : State := { s with cycles := v }
def State.setDraws (s : State) (v : Nat) : State := { s with draws := v }
def State.setCart (s : State) (v : Cartridge) : State := { s with cart := v }

end Sys2Proof.Machine
end

