-- ==== Sys2Proof/Machine/Flags.lean ====
section
/-! DEFINITION. Every flag computation of the spec: packing and unpacking the status byte (10_state.md rules R37, R38),
setNZ (40_addressing.md rule R207), addition, comparison and the shifts (42_arith_logic.md, 43_shift_rotate.md). -/

namespace Sys2Proof.Machine

/-- A byte with bit `k` equal to `b` and the others 0. -/
def bitAt (b : Bool) (k : Nat) : Byte := if b then 1#8 <<< k else 0#8

/-- The status byte a push writes: `N V 1 bflag D I Z C`; the stored B is not used (R37). -/
def Flags.pack (p : Flags) (bflag : Bool) : Byte :=
  bitAt p.n 7 ||| bitAt p.v 6 ||| bitAt true 5 ||| bitAt bflag 4 |||
  bitAt p.d 3 ||| bitAt p.i 2 ||| bitAt p.z 1 ||| bitAt p.c 0

/-- The flags a pulled byte gives; bit 5 is discarded (R38). -/
def Flags.unpack (b : Byte) : Flags :=
  { n := b.getLsbD 7, v := b.getLsbD 6, b := b.getLsbD 4, d := b.getLsbD 3
    i := b.getLsbD 2, z := b.getLsbD 1, c := b.getLsbD 0 }

/-- `setNZ(r)` (R207). -/
def Flags.setNZ (p : Flags) (r : Byte) : Flags := { p with z := r == 0#8, n := r.getLsbD 7 }

/-- The exact sum `A + M + P.C` of R240, 0 to 511. -/
def adcSum (a m : Byte) (c : Bool) : Nat := a.toNat + m.toNat + c.toNat

/-- The 8-bit sum of R240. -/
def adcResult (a m : Byte) (c : Bool) : Byte := BitVec.ofNat 8 (adcSum a m c)

/-- The flags of ADC (R240): C the carry out of bit 7, V signed overflow, N and Z from the sum. D plays no part (R256). -/
def Flags.adc (p : Flags) (a m : Byte) : Flags :=
  let r := adcResult a m p.c
  { p with
    c := decide (adcSum a m p.c > 0xFF)
    v := ((a ^^^ r) &&& (m ^^^ r) &&& 0x80#8) != 0#8
    z := r == 0#8
    n := r.getLsbD 7 }

/-- The flags of CMP, CPX and CPY: an unsigned comparison of `r` with `m` (R245 to R247). -/
def Flags.compare (p : Flags) (r m : Byte) : Flags :=
  { p with c := decide (m.toNat ≤ r.toNat), z := r == m, n := (r - m).getLsbD 7 }

/-- The flags of BIT: Z from `A and M`, N and V copied from M (R248). -/
def Flags.bitTest (p : Flags) (a m : Byte) : Flags :=
  { p with z := (a &&& m) == 0#8, n := m.getLsbD 7, v := m.getLsbD 6 }

/-- A shift's flags: C the bit shifted out, N and Z from the result. -/
def Flags.shifted (p : Flags) (out : Bool) (r : Byte) : Flags := ({ p with c := out }).setNZ r

/-- The result of a read-modify-write operation and the flags it leaves. -/
structure RmwResult where
  value : Byte
  flags : Flags
  deriving DecidableEq, Repr

/-- ASL (R270). -/
def aslOp (p : Flags) (v : Byte) : RmwResult :=
  let r := v <<< 1
  { value := r, flags := p.shifted (v.getLsbD 7) r }

/-- LSR (R271). -/
def lsrOp (p : Flags) (v : Byte) : RmwResult :=
  let r := v >>> 1
  { value := r, flags := p.shifted (v.getLsbD 0) r }

/-- ROL (R272): the old C comes in at bit 0. -/
def rolOp (p : Flags) (v : Byte) : RmwResult :=
  let r := (v <<< 1) ||| bitAt p.c 0
  { value := r, flags := p.shifted (v.getLsbD 7) r }

/-- ROR (R273): the old C comes in at bit 7. -/
def rorOp (p : Flags) (v : Byte) : RmwResult :=
  let r := (v >>> 1) ||| bitAt p.c 7
  { value := r, flags := p.shifted (v.getLsbD 0) r }

/-- INC (R249). -/
def incOp (p : Flags) (v : Byte) : RmwResult := { value := v + 1, flags := p.setNZ (v + 1) }

/-- DEC (R250). -/
def decOp (p : Flags) (v : Byte) : RmwResult := { value := v - 1, flags := p.setNZ (v - 1) }

end Sys2Proof.Machine
end

