-- ==== Sys2Proof/Machine/Memory.lean ====
section
/-! DEFINITION. The operations on a memory held as sparse data in canonical form (log 12): reading, writing, the form
itself, and making one from an array. `d` is what an address that is not listed holds. -/

namespace Sys2Proof.Machine

/-- The value at address `k`. -/
def Memory.read {α : Type} (d : α) : Memory α → Nat → α
  | [], _ => d
  | (k', v') :: m, k => if k = k' then v' else Memory.read d m k

/-- The memory with value `v` at address `k` and every other address as before. -/
def Memory.write {α : Type} [DecidableEq α] (d : α) : Memory α → Nat → α → Memory α
  | [], k, v => if v = d then [] else [(k, v)]
  | (k', v') :: m, k, v =>
    if k = k' then (if v = d then Memory.write d m k v else (k, v) :: m)
    else if k < k' ∧ v ≠ d then (k, v) :: (k', v') :: m
    else (k', v') :: Memory.write d m k v

/-- Every listed address is at least `lo`. -/
def Memory.above {α : Type} (lo : Nat) (m : Memory α) : Bool := m.all (fun c => lo ≤ c.1)

/-- The canonical form: addresses strictly rising, no listed value equal to `d`. -/
def Memory.wf {α : Type} [DecidableEq α] (d : α) : Memory α → Bool
  | [] => true
  | (k, v) :: m => v ≠ d && Memory.above (k + 1) m && Memory.wf d m

/-- Every listed address is below `n`. -/
def Memory.below {α : Type} (n : Nat) (m : Memory α) : Bool := m.all (fun c => c.1 < n)

/-- The memory that holds an array from address `k` on. -/
def Memory.ofListFrom {α : Type} [DecidableEq α] (d : α) : Nat → List α → Memory α
  | _, [] => []
  | k, v :: l => if v = d then Memory.ofListFrom d (k + 1) l else (k, v) :: Memory.ofListFrom d (k + 1) l

/-- The memory of `n` places that holds an array's first `n` values. -/
def Memory.ofList {α : Type} [DecidableEq α] (d : α) (n : Nat) (l : List α) : Memory α :=
  Memory.ofListFrom d 0 (l.take n)

end Sys2Proof.Machine
end

