-- ==== Sys2Proof/Machine/Picture.lean ====
section
/-! DEFINITION. The PPU address space (20_memory.md rules R124, R130 to R136) and the PPU's register handlers
(10_state.md rules R60 to R67), on the picture unit and the cartridge alone. A byte of `draw()` comes in as an argument. -/

namespace Sys2Proof.Machine

/-- `nt_index(a)`: the place in VRAM of a nametable address (R134, R136). -/
def ntIndex (mir : Mirroring) (a : PpuAddr) : Nat :=
  let r := a.toNat % 0x1000
  let window := r / 0x400
  let off := r % 0x400
  match mir with
  | .vertical => window % 2 * 0x400 + off
  | .horizontal => window / 2 * 0x400 + off

/-- `pal_index(a)`: the palette entry of a palette address (R135). -/
def palIndex (a : PpuAddr) : Nat :=
  let i := a.toNat % 0x20
  if i = 0x10 ∨ i = 0x14 ∨ i = 0x18 ∨ i = 0x1C then i - 0x10 else i

/-- The palette entry at a palette address (R135). -/
def Ppu.paletteAt (u : Ppu) (a : PpuAddr) : Colour := Memory.read 0 u.palette (palIndex a)

/-- A palette address (R130). -/
def isPalette (a : PpuAddr) : Bool := decide (0x3F00 ≤ a.toNat)

/-- `PpuRead(a)` (R131). `open7` supplies bits 7:6 of a palette read; no other read looks at it. -/
def ppuRead (c : Cartridge) (u : Ppu) (open7 : Byte) (a : PpuAddr) : Byte :=
  if a.toNat < 0x2000 then Memory.read 0 c.chr a.toNat
  else if a.toNat < 0x3F00 then Memory.read 0 u.vram (ntIndex c.mirroring a)
  else (u.paletteAt a).setWidth 8 ||| (open7 &&& 0xC0#8)

/-- `PpuWrite(a, v)` (R132): CHR is not written (R124); a palette entry keeps 6 bits. -/
def ppuWrite (c : Cartridge) (u : Ppu) (a : PpuAddr) (v : Byte) : Ppu :=
  if a.toNat < 0x2000 then u
  else if a.toNat < 0x3F00 then { u with vram := Memory.write 0 u.vram (ntIndex c.mirroring a) v }
  else { u with palette := Memory.write 0 u.palette (palIndex a) (v.setWidth 6) }

/-- The PPU address PPUDATA uses: `v & 0x3FFF` (R54, R67). -/
def Ppu.dataAddr (u : Ppu) : PpuAddr := u.v.setWidth 14

/-- `v` after a PPUDATA access: up by 32 or 1 (PPUCTRL bit 2), mod 2^15 (R67). -/
def Ppu.bumpV (u : Ppu) : Ppu := { u with v := u.v + (if u.ctrl.getLsbD 2 then 32 else 1) }

/-- Write PPUCTRL (R60): no NMI is raised, whatever the vblank flag. -/
def Ppu.writeCtrl (u : Ppu) (d : Byte) : Ppu :=
  { u with ctrl := d, t := (u.t &&& ~~~0x0C00#15) ||| ((d &&& 0x03#8).setWidth 15 <<< 10) }

/-- Write PPUMASK (R61). -/
def Ppu.writeMask (u : Ppu) (d : Byte) : Ppu := { u with mask := d }

/-- Write OAMADDR (R63). -/
def Ppu.writeOamAddr (u : Ppu) (d : Byte) : Ppu := { u with oamAddr := d }

/-- Write OAMDATA (R64). -/
def Ppu.writeOamData (u : Ppu) (d : Byte) : Ppu :=
  { u with oam := Memory.write 0 u.oam u.oamAddr.toNat d, oamAddr := u.oamAddr + 1 }

/-- Write PPUSCROLL (R65). -/
def Ppu.writeScroll (u : Ppu) (d : Byte) : Ppu :=
  if u.w then
    { u with
      t := (u.t &&& ~~~0x73E0#15) ||| ((d &&& 0x07#8).setWidth 15 <<< 12) ||| ((d >>> 3).setWidth 15 <<< 5)
      w := false }
  else
    { u with t := (u.t &&& ~~~0x001F#15) ||| (d >>> 3).setWidth 15, x := d.setWidth 3, w := true }

/-- Write PPUADDR (R66). -/
def Ppu.writeAddr (u : Ppu) (d : Byte) : Ppu :=
  if u.w then
    let t := (u.t &&& 0x7F00#15) ||| d.setWidth 15
    { u with t := t, v := t, w := false }
  else
    { u with t := (u.t &&& 0x00FF#15) ||| ((d &&& 0x3F#8).setWidth 15 <<< 8), w := true }

/-- Write PPUDATA (R67). -/
def Ppu.writeData (c : Cartridge) (u : Ppu) (d : Byte) : Ppu := (ppuWrite c u u.dataAddr d).bumpV

/-- A CPU write of `d` to PPU register `n` (R50; 20_memory.md rule R104). PPUSTATUS ignores it (R62). -/
def Ppu.writeReg (c : Cartridge) (u : Ppu) (n : Nat) (d : Byte) : Ppu :=
  match n with
  | 0 => u.writeCtrl d
  | 1 => u.writeMask d
  | 3 => u.writeOamAddr d
  | 4 => u.writeOamData d
  | 5 => u.writeScroll d
  | 6 => u.writeAddr d
  | 7 => Ppu.writeData c u d
  | _ => u

/-- The value of a PPUSTATUS read; `open5` supplies bits 4:0 (R62). -/
def Ppu.statusByte (u : Ppu) (open5 : Byte) : Byte :=
  (if u.vblank then 0x80#8 else 0#8) ||| (if u.sprite0Hit then 0x40#8 else 0#8) |||
  (if u.spriteOverflow then 0x20#8 else 0#8) ||| (open5 &&& 0x1F#8)

/-- The picture unit after a PPUSTATUS read (R62): `nmi_pending` is not cleared. -/
def Ppu.afterStatusRead (u : Ppu) : Ppu := { u with vblank := false, w := false }

/-- The value of a PPUDATA read (R67): the buffer below the palette, the entry itself in it. -/
def Ppu.dataByte (c : Cartridge) (u : Ppu) (open7 : Byte) : Byte :=
  if isPalette u.dataAddr then ppuRead c u open7 u.dataAddr else u.readBuffer

/-- The byte a PPUDATA read refills the buffer with: in the palette, the nametable byte beneath (R67). -/
def Ppu.refillByte (c : Cartridge) (u : Ppu) : Byte :=
  if isPalette u.dataAddr then ppuRead c u 0 (u.dataAddr - 0x1000) else ppuRead c u 0 u.dataAddr

/-- The picture unit after a PPUDATA read (R67). -/
def Ppu.afterDataRead (c : Cartridge) (u : Ppu) : Ppu :=
  ({ u with readBuffer := Ppu.refillByte c u }).bumpV

end Sys2Proof.Machine
end

