-- ==== Sys2Proof/Machine/Ops.lean ====
section
/-! DEFINITION. The named operations: open-bus draws, the CPU bus with its devices (20_memory.md rules R100 to R123),
the controller (60_exceptions.md rules R400 to R403), OAM DMA, the stack (40_addressing.md rule R206), taking an interrupt
and returning from one (60_exceptions.md rules R340 to R345), and the PC and cycle accounting (R208, R209). -/

namespace Sys2Proof.Machine

/-- `draw()`: the next free byte, and the machine with one more byte drawn (00_scope.md rule R17, log 1). No two reads of a
run share a byte: a step counts what it draws, and a fault does not set the count back (`State.faultedBy`). -/
def State.drawByte (s : State) : Byte × State := (Config.draw s.draws, s.setDraws (s.draws + 1))

/-- The place in RAM of an address in 0x0000 to 0x1FFF: `addr & 0x07FF` (R102). -/
def ramIndex (a : Addr) : Nat := a.toNat % 0x800

/-- The RAM byte at an address in 0x0000 to 0x1FFF (R102). -/
def State.ramAt (s : State) (a : Addr) : Byte := Memory.read 0 s.ram (ramIndex a)

/-- The machine with the RAM byte at an address in 0x0000 to 0x1FFF written (R102). -/
def State.ramPut (s : State) (a : Addr) (v : Byte) : State := s.setRam (Memory.write 0 s.ram (ramIndex a) v)

/-- `len(prg)` (R120). -/
def PrgBanks.size : PrgBanks → Nat
  | .one => 16384
  | .two => 32768

/-- The place in PRG of an address in 0x8000 to 0xFFFF: `(addr - 0x8000) mod len(prg)` (R121). -/
def prgIndex (b : PrgBanks) (a : Addr) : Nat := (a.toNat - 0x8000) % b.size

/-- The PRG byte at an address in 0x8000 to 0xFFFF (R121). -/
def State.prgAt (s : State) (a : Addr) : Byte := Memory.read 0 s.cart.prg (prgIndex s.cart.banks a)

/-- The PPU register an address in 0x2000 to 0x3FFF selects: `addr & 7` (R104). -/
def ppuRegister (a : Addr) : Nat := a.toNat % 8

/-- A CPU read of PPU register `n` (10_state.md rules R50, R62, R64, R67). -/
def readPpu (n : Nat) (s : State) : Byte × State :=
  match n with
  | 2 => (s.ppu.statusByte s.drawByte.1, s.drawByte.2.setPpu s.ppu.afterStatusRead)
  | 4 => (Memory.read 0 s.ppu.oam s.ppu.oamAddr.toNat, s)
  | 7 =>
    if isPalette s.ppu.dataAddr then
      (Ppu.dataByte s.cart s.ppu s.drawByte.1, s.drawByte.2.setPpu (Ppu.afterDataRead s.cart s.ppu))
    else (Ppu.dataByte s.cart s.ppu 0, s.setPpu (Ppu.afterDataRead s.cart s.ppu))
  | _ => s.drawByte

/-- The bit a controller read gives (60_exceptions.md rule R403). -/
def Controller.bit (c : Controller) : Bool := if c.strobe then c.buttons.getLsbD 0 else c.shift.getLsbD 0

/-- The controller after a read (R403): it shifts only while the strobe is 0. -/
def Controller.afterRead (c : Controller) : Controller :=
  if c.strobe then c else { c with shift := (c.shift >>> 1) ||| 0x80#8 }

/-- The controller after a strobe write of `d` (R402). -/
def Controller.afterStrobe (c : Controller) (d : Byte) : Controller :=
  if d.getLsbD 0 then { c with strobe := true, shift := c.buttons } else { c with strobe := false }

/-- A CPU read of 0x4016: `(draw() & 0xFE) | bit` (R111). -/
def readController (s : State) : Byte × State :=
  ((s.drawByte.1 &&& 0xFE#8) ||| bitAt s.ctl.bit 0, s.drawByte.2.setCtl s.ctl.afterRead)

/-- An address in no region: 0x4018 to 0x401F (R115). -/
def unmapped (a : Addr) : Bool := decide (0x4018 ≤ a.toNat ∧ a.toNat ≤ 0x401F)

/-- What a CPU read of a mapped address gives: the dispatch of R100 (RAM R102, PPU window R104, controller R111, sound and
DMA registers R112 and R114, empty cartridge space R122, PRG R121). -/
def busRead (a : Addr) (s : State) : Byte × State :=
  if a.toNat < 0x2000 then (s.ramAt a, s)
  else if a.toNat < 0x4000 then readPpu (ppuRegister a) s
  else if a.toNat = 0x4016 then readController s
  else if a.toNat < 0x8000 then s.drawByte
  else (s.prgAt a, s)

/-- `MemRead(addr, 1)`: the CPU bus read, with its side effects and its fault (R100, R115; 60_exceptions.md rule R321). -/
def read (a : Addr) (s : State) : Except Fault (Byte × State) :=
  if unmapped a then .error (.unmappedAddress a) else .ok (busRead a s)

/-- The `n` reads of OAM DMA still to come, from byte `256 - n` of page `d` on, each stored in OAM as it is read (R113). -/
def oamDmaLoop (d : Byte) : Nat → State → Except Fault State
  | 0, s => .ok s
  | n + 1, s =>
    let i : Byte := BitVec.ofNat 8 (255 - n)
    match read (hiLo d i) s with
    | .error e => .error e
    | .ok (b, s1) =>
      oamDmaLoop d n
        (s1.setPpu { s1.ppu with oam := Memory.write 0 s1.ppu.oam (s1.ppu.oamAddr + i).toNat b })

/-- OAM DMA: a write of `d` to 0x4014 (R113). -/
def oamDma (d : Byte) (s : State) : Except Fault State :=
  match oamDmaLoop d 256 s with
  | .error e => .error e
  | .ok s1 => .ok (s1.setExtraCycles (s1.extraCycles + s1.params.oamDmaCycles))

/-- `MemWrite(addr, 1, v)`: the CPU bus write (R100, R102, R104, R110, R112, R113, R115, R123). -/
def write (a : Addr) (v : Byte) (s : State) : Except Fault State :=
  if unmapped a then .error (.unmappedAddress a)
  else if a.toNat < 0x2000 then .ok (s.ramPut a v)
  else if a.toNat < 0x4000 then .ok (s.setPpu (Ppu.writeReg s.cart s.ppu (ppuRegister a) v))
  else if a.toNat = 0x4014 then oamDma v s
  else if a.toNat = 0x4016 then .ok (s.setCtl (s.ctl.afterStrobe v))
  else .ok s

/-- What a CPU read of an address of plain memory gives, RAM or PRG: those reads have no side effect (R102, R121). None for
every other address. -/
def State.peek (s : State) (a : Addr) : Option Byte :=
  if a.toNat < 0x2000 then some (s.ramAt a)
  else if 0x8000 ≤ a.toNat then some (s.prgAt a)
  else none

/-- The address of the stack place SP names: `0x0100 + SP` (10_state.md rule R34). -/
def stackAddr (sp : Byte) : Addr := hiLo 0x01 sp

/-- `push(b)` (R206). A stack address is always RAM, so the bus write is a RAM write (20_memory.md rule R146, log 10). -/
def push (b : Byte) (s : State) : State := (s.ramPut (stackAddr s.sp) b).setSp (s.sp - 1)

/-- `push16(w)`: the high byte first (R206). -/
def push16 (w : Addr) (s : State) : State := push (loByte w) (push (hiByte w) s)

/-- The byte `pull()` gives (R206). -/
def pulled (s : State) : Byte := s.ramAt (stackAddr (s.sp + 1))

/-- The machine after `pull()`: only SP changes (R206). -/
def pull (s : State) : State := s.setSp (s.sp + 1)

/-- The word `pull16()` gives: the low byte comes first (R206). -/
def pulled16 (s : State) : Addr := hiLo (pulled (pull s)) (pulled s)

/-- The machine after `pull16()` (R206). -/
def pull16 (s : State) : State := pull (pull s)

/-- The word at an interrupt vector: `MemRead16` of an address in PRG (R140, R145, log 10). -/
def State.vectorAt (s : State) (a : Addr) : Addr := hiLo (s.prgAt (a + 1)) (s.prgAt a)

/-- The vectors of R145. -/
def nmiVector : Addr := 0xFFFA
def resetVector : Addr := 0xFFFC
def irqVector : Addr := 0xFFFE

/-- TAKING AN INTERRUPT, the one shared operation of BRK, NMI and IRQ (60_exceptions.md rules R340, R342, R344;
44_control_transfer.md rule R292): push PC high byte first, push the packed status with `bflag` as bit 4, set I, and go to
the address at `vector`. Nothing else changes. -/
def takeInterrupt (bflag : Bool) (vector : Addr) (s : State) : State :=
  let s1 := push (s.p.pack bflag) (push16 s.pc s)
  (s1.setP { s.p with i := true }).setPc (s.vectorAt vector)

/-- Returning from an interrupt: pull the status, then the PC (R345; 44_control_transfer.md rule R293). -/
def returnFromInterrupt (s : State) : State :=
  let s1 := (pull s).setP (Flags.unpack (pulled s))
  (pull16 s1).setPc (pulled16 s1)

/-- The start of an instruction of `len` bytes: PC past it (R209) and `extra_cycles` 0 (R190). -/
def startInstr (len : Nat) (s : State) : State := (s.setPc (s.pc + BitVec.ofNat 16 len)).setExtraCycles 0

/-- The cycle count the step returns: `n` plus `extra_cycles` (R208). -/
def finishInstr (n : Nat) (s : State) : State := s.setCycles (n + s.extraCycles)

end Sys2Proof.Machine
end

