-- ==== Sys2Proof/Machine/Operands.lean ====
section
/-! DEFINITION. Every operand form (40_addressing.md rules R192 to R205), the cycle counts by class and mode (R208;
70_reset_and_hazards.md rule R451), and what the instructions of one class share. -/

namespace Sys2Proof.Machine

/-- A memory operand: the form and its operand byte or address. -/
inductive MemOperand where
  | zp (b : Byte)
  | zpX (b : Byte)
  | zpY (b : Byte)
  | abs (a : Addr)
  | absX (a : Addr)
  | absY (a : Addr)
  | indX (b : Byte)
  | indY (b : Byte)
  deriving DecidableEq, Repr

/-- An operand of a read-class instruction. -/
inductive Operand where
  | imm (b : Byte)
  | mem (m : MemOperand)
  deriving DecidableEq, Repr

/-- A zero-page address (R161, R195). -/
def zpAddr (b : Byte) : Addr := hiLo 0x00 b

/-- The pointer at zero-page address `p`; its high byte wraps within page 0 (R201, R202). Zero page is always RAM, so its
reads have no side effect and cannot fault (log 10). -/
def State.zpPointer (s : State) (p : Byte) : Addr := hiLo (s.ramAt (zpAddr (p + 1))) (s.ramAt (zpAddr p))

/-- The address an index is added to, in the forms where a page can be crossed (R199, R200, R202). -/
def MemOperand.base (m : MemOperand) (s : State) : Addr :=
  match m with
  | .zp b => zpAddr b
  | .zpX b => zpAddr b
  | .zpY b => zpAddr b
  | .abs a => a
  | .absX a => a
  | .absY a => a
  | .indX b => s.zpPointer (b + s.x)
  | .indY b => s.zpPointer b

/-- The effective address `ea` (R195 to R202). -/
def MemOperand.ea (m : MemOperand) (s : State) : Addr :=
  match m with
  | .zp b => zpAddr b
  | .zpX b => zpAddr (b + s.x)
  | .zpY b => zpAddr (b + s.y)
  | .abs a => a
  | .absX a => a + s.x.setWidth 16
  | .absY a => a + s.y.setWidth 16
  | .indX b => s.zpPointer (b + s.x)
  | .indY b => s.zpPointer b + s.y.setWidth 16

/-- `crossed`: the index carried into another page (R199, R200, R202); false in every other form (R196, R201). -/
def MemOperand.crossed (m : MemOperand) (s : State) : Bool :=
  match m with
  | .absX _ | .absY _ | .indY _ => hiByte (m.base s) != hiByte (m.ea s)
  | .zp _ | .zpX _ | .zpY _ | .abs _ | .indX _ => false

/-- The length of an instruction with this operand (R160). -/
def MemOperand.length : MemOperand → Nat
  | .abs _ | .absX _ | .absY _ => 3
  | .zp _ | .zpX _ | .zpY _ | .indX _ | .indY _ => 2

/-- The length of an instruction with this operand (R160). -/
def Operand.length : Operand → Nat
  | .imm _ => 2
  | .mem m => m.length

/-- The base cycles of a read-class instruction, by mode (R451). -/
def Operand.readCycles : Operand → Nat
  | .imm _ => 2
  | .mem (.zp _) => 3
  | .mem (.zpX _) | .mem (.zpY _) => 4
  | .mem (.abs _) | .mem (.absX _) | .mem (.absY _) => 4
  | .mem (.indX _) => 6
  | .mem (.indY _) => 5

/-- The page-crossing cycle of a read-class instruction (R208). -/
def Operand.penalty (o : Operand) (s : State) : Nat :=
  match o with
  | .imm _ => 0
  | .mem m => if m.crossed s then 1 else 0

/-- The cycles of a write-class instruction, by mode: no penalty (R208, R451). -/
def MemOperand.writeCycles : MemOperand → Nat
  | .zp _ => 3
  | .zpX _ | .zpY _ => 4
  | .abs _ => 4
  | .absX _ | .absY _ => 5
  | .indX _ | .indY _ => 6

/-- The cycles of a read-modify-write instruction, by mode: no penalty (R208, R451). No such instruction has the forms
zp,Y, abs,Y, (zp,X) or (zp),Y. -/
def MemOperand.rmwCycles : MemOperand → Nat
  | .zp _ => 5
  | .zpX _ | .zpY _ => 6
  | .abs _ => 6
  | .absX _ | .absY _ => 7
  | .indX _ | .indY _ => 8

/-- The operand byte `M` of a read-class instruction: the immediate byte (R194), or exactly one read at `ea` (R205). -/
def operandByte (o : Operand) (s : State) : Except Fault (Byte × State) :=
  match o with
  | .imm b => .ok (b, s)
  | .mem m => read (m.ea s) s

/-- A read-class instruction (R205): fetch the operand byte, then `effect`. -/
def readInstr (o : Operand) (effect : Byte → State → State) (s : State) : Host.Outcome State Fault Refusal :=
  let s0 := startInstr o.length s
  match operandByte o s0 with
  | .error e => .fault e
  | .ok (m, s1) => .next (finishInstr (o.readCycles + o.penalty s0) (effect m s1))

/-- A write-class instruction (R205): exactly one write of `v` at `ea`, which is not read. -/
def writeInstr (m : MemOperand) (v : Byte) (s : State) : Host.Outcome State Fault Refusal :=
  let s0 := startInstr m.length s
  match write (m.ea s0) v s0 with
  | .error e => .fault e
  | .ok s1 => .next (finishInstr m.writeCycles s1)

/-- A read-modify-write instruction in a memory form (R205): exactly one read at `ea`, then one write there. -/
def rmwInstr (m : MemOperand) (op : Flags → Byte → RmwResult) (s : State) : Host.Outcome State Fault Refusal :=
  let s0 := startInstr m.length s
  match read (m.ea s0) s0 with
  | .error e => .fault e
  | .ok (b, s1) =>
    let r := op s1.p b
    match write (m.ea s0) r.value s1 with
    | .error e => .fault e
    | .ok s2 => .next (finishInstr m.rmwCycles (s2.setP r.flags))

/-- A read-modify-write instruction on A (R193). -/
def accInstr (op : Flags → Byte → RmwResult) (s : State) : Host.Outcome State Fault Refusal :=
  let s0 := startInstr 1 s
  let r := op s0.p s0.a
  .next (finishInstr 2 ((s0.setA r.value).setP r.flags))

/-- An implied instruction of 1 byte and `cycles` cycles that only does `effect` (R192). -/
def impliedInstr (cycles : Nat) (effect : State → State) (s : State) : Host.Outcome State Fault Refusal :=
  .next (finishInstr cycles (effect (startInstr 1 s)))

/-- The signed offset of a branch as a 16-bit value: `sext_16(b)` (R161, R204; 00_scope.md rule R13). -/
def sext16 (b : Byte) : Addr := b.signExtend 16

/-- A conditional branch (44_control_transfer.md rule R280; 40_addressing.md rule R204). The page compared is that of the next
instruction, by R280's formula. Where the spec's prose gives another count, the model follows the formula: DESIGN CHOICE
(log 24). So a branch to itself takes 4 cycles when the low byte of its address is 0xFE or 0xFF, of which R280 says 3, and
`BMI` at 0x8100 with the offset 0x80 takes 4, of which R284 says 3. -/
def branchInstr (cond : Bool) (off : Byte) (s : State) : Host.Outcome State Fault Refusal :=
  let s0 := startInstr 2 s
  let target := s0.pc + sext16 off
  if cond then
    .next (finishInstr (if hiByte s0.pc = hiByte target then 3 else 4) (s0.setPc target))
  else .next (finishInstr 2 s0)

/-- A load into A: `A <- v; setNZ(A)`. -/
def loadA (v : Byte) (s : State) : State := (s.setA v).setP (s.p.setNZ v)

/-- A load into X: `X <- v; setNZ(X)`. -/
def loadX (v : Byte) (s : State) : State := (s.setX v).setP (s.p.setNZ v)

/-- A load into Y: `Y <- v; setNZ(Y)`. -/
def loadY (v : Byte) (s : State) : State := (s.setY v).setP (s.p.setNZ v)

end Sys2Proof.Machine
end

