-- ==== Sys2Proof/Machine/Arith.lean ====
section
/-! DEFINITION. Arithmetic, logic, compare, bit test, increment and decrement (42_arith_logic.md rules R240 to R257).
One meaning per opcode, over the shared operations of Operands.lean and Ops.lean. -/

namespace Sys2Proof.Machine

/-- `ADC` of the byte `m` (R240); SBC is `ADC` of the complement (R241). D plays no part (R256). -/
def adcEffect (m : Byte) (s : State) : State := (s.setA (adcResult s.a m s.p.c)).setP (s.p.adc s.a m)

/-- `SBC` (R241). -/
def sbcEffect (m : Byte) (s : State) : State := adcEffect (m ^^^ 0xFF#8) s

/-- `AND` (R242). -/
def andEffect (m : Byte) (s : State) : State := loadA (s.a &&& m) s

/-- `ORA` (R243). -/
def oraEffect (m : Byte) (s : State) : State := loadA (s.a ||| m) s

/-- `EOR` (R244). -/
def eorEffect (m : Byte) (s : State) : State := loadA (s.a ^^^ m) s

/-- `CMP` (R245). -/
def cmpEffect (m : Byte) (s : State) : State := s.setP (s.p.compare s.a m)

/-- `CPX` (R246). -/
def cpxEffect (m : Byte) (s : State) : State := s.setP (s.p.compare s.x m)

/-- `CPY` (R247). -/
def cpyEffect (m : Byte) (s : State) : State := s.setP (s.p.compare s.y m)

/-- `BIT` (R248). -/
def bitEffect (m : Byte) (s : State) : State := s.setP (s.p.bitTest s.a m)

/-- ADC #$nn (R240, mode R194). -/
def execAdcImm (imm : Byte) (s : State) : Host.Outcome State Fault Refusal :=
  readInstr (.imm imm) adcEffect s

/-- ADC $nn (R240, mode R195). -/
def execAdcZp (zp : Byte) (s : State) : Host.Outcome State Fault Refusal :=
  readInstr (.mem (.zp zp)) adcEffect s

/-- ADC $nn,X (R240, mode R196). -/
def execAdcZpX (zp : Byte) (s : State) : Host.Outcome State Fault Refusal :=
  readInstr (.mem (.zpX zp)) adcEffect s

/-- ADC $hhll (R240, mode R198). -/
def execAdcAbs (addr : Addr) (s : State) : Host.Outcome State Fault Refusal :=
  readInstr (.mem (.abs addr)) adcEffect s

/-- ADC $hhll,X (R240, mode R199). -/
def execAdcAbsX (addr : Addr) (s : State) : Host.Outcome State Fault Refusal :=
  readInstr (.mem (.absX addr)) adcEffect s

/-- ADC $hhll,Y (R240, mode R200). -/
def execAdcAbsY (addr : Addr) (s : State) : Host.Outcome State Fault Refusal :=
  readInstr (.mem (.absY addr)) adcEffect s

/-- ADC ($nn,X) (R240, mode R201). -/
def execAdcIndX (zp : Byte) (s : State) : Host.Outcome State Fault Refusal :=
  readInstr (.mem (.indX zp)) adcEffect s

/-- ADC ($nn),Y (R240, mode R202). -/
def execAdcIndY (zp : Byte) (s : State) : Host.Outcome State Fault Refusal :=
  readInstr (.mem (.indY zp)) adcEffect s

/-- SBC #$nn (R241, mode R194). -/
def execSbcImm (imm : Byte) (s : State) : Host.Outcome State Fault Refusal :=
  readInstr (.imm imm) sbcEffect s

/-- SBC $nn (R241, mode R195). -/
def execSbcZp (zp : Byte) (s : State) : Host.Outcome State Fault Refusal :=
  readInstr (.mem (.zp zp)) sbcEffect s

/-- SBC $nn,X (R241, mode R196). -/
def execSbcZpX (zp : Byte) (s : State) : Host.Outcome State Fault Refusal :=
  readInstr (.mem (.zpX zp)) sbcEffect s

/-- SBC $hhll (R241, mode R198). -/
def execSbcAbs (addr : Addr) (s : State) : Host.Outcome State Fault Refusal :=
  readInstr (.mem (.abs addr)) sbcEffect s

/-- SBC $hhll,X (R241, mode R199). -/
def execSbcAbsX (addr : Addr) (s : State) : Host.Outcome State Fault Refusal :=
  readInstr (.mem (.absX addr)) sbcEffect s

/-- SBC $hhll,Y (R241, mode R200). -/
def execSbcAbsY (addr : Addr) (s : State) : Host.Outcome State Fault Refusal :=
  readInstr (.mem (.absY addr)) sbcEffect s

/-- SBC ($nn,X) (R241, mode R201). -/
def execSbcIndX (zp : Byte) (s : State) : Host.Outcome State Fault Refusal :=
  readInstr (.mem (.indX zp)) sbcEffect s

/-- SBC ($nn),Y (R241, mode R202). -/
def execSbcIndY (zp : Byte) (s : State) : Host.Outcome State Fault Refusal :=
  readInstr (.mem (.indY zp)) sbcEffect s

/-- AND #$nn (R242, mode R194). -/
def execAndImm (imm : Byte) (s : State) : Host.Outcome State Fault Refusal :=
  readInstr (.imm imm) andEffect s

/-- AND $nn (R242, mode R195). -/
def execAndZp (zp : Byte) (s : State) : Host.Outcome State Fault Refusal :=
  readInstr (.mem (.zp zp)) andEffect s

/-- AND $nn,X (R242, mode R196). -/
def execAndZpX (zp : Byte) (s : State) : Host.Outcome State Fault Refusal :=
  readInstr (.mem (.zpX zp)) andEffect s

/-- AND $hhll (R242, mode R198). -/
def execAndAbs (addr : Addr) (s : State) : Host.Outcome State Fault Refusal :=
  readInstr (.mem (.abs addr)) andEffect s

/-- AND $hhll,X (R242, mode R199). -/
def execAndAbsX (addr : Addr) (s : State) : Host.Outcome State Fault Refusal :=
  readInstr (.mem (.absX addr)) andEffect s

/-- AND $hhll,Y (R242, mode R200). -/
def execAndAbsY (addr : Addr) (s : State) : Host.Outcome State Fault Refusal :=
  readInstr (.mem (.absY addr)) andEffect s

/-- AND ($nn,X) (R242, mode R201). -/
def execAndIndX (zp : Byte) (s : State) : Host.Outcome State Fault Refusal :=
  readInstr (.mem (.indX zp)) andEffect s

/-- AND ($nn),Y (R242, mode R202). -/
def execAndIndY (zp : Byte) (s : State) : Host.Outcome State Fault Refusal :=
  readInstr (.mem (.indY zp)) andEffect s

/-- ORA #$nn (R243, mode R194). -/
def execOraImm (imm : Byte) (s : State) : Host.Outcome State Fault Refusal :=
  readInstr (.imm imm) oraEffect s

/-- ORA $nn (R243, mode R195). -/
def execOraZp (zp : Byte) (s : State) : Host.Outcome State Fault Refusal :=
  readInstr (.mem (.zp zp)) oraEffect s

/-- ORA $nn,X (R243, mode R196). -/
def execOraZpX (zp : Byte) (s : State) : Host.Outcome State Fault Refusal :=
  readInstr (.mem (.zpX zp)) oraEffect s

/-- ORA $hhll (R243, mode R198). -/
def execOraAbs (addr : Addr) (s : State) : Host.Outcome State Fault Refusal :=
  readInstr (.mem (.abs addr)) oraEffect s

/-- ORA $hhll,X (R243, mode R199). -/
def execOraAbsX (addr : Addr) (s : State) : Host.Outcome State Fault Refusal :=
  readInstr (.mem (.absX addr)) oraEffect s

/-- ORA $hhll,Y (R243, mode R200). -/
def execOraAbsY (addr : Addr) (s : State) : Host.Outcome State Fault Refusal :=
  readInstr (.mem (.absY addr)) oraEffect s

/-- ORA ($nn,X) (R243, mode R201). -/
def execOraIndX (zp : Byte) (s : State) : Host.Outcome State Fault Refusal :=
  readInstr (.mem (.indX zp)) oraEffect s

/-- ORA ($nn),Y (R243, mode R202). -/
def execOraIndY (zp : Byte) (s : State) : Host.Outcome State Fault Refusal :=
  readInstr (.mem (.indY zp)) oraEffect s

/-- EOR #$nn (R244, mode R194). -/
def execEorImm (imm : Byte) (s : State) : Host.Outcome State Fault Refusal :=
  readInstr (.imm imm) eorEffect s

/-- EOR $nn (R244, mode R195). -/
def execEorZp (zp : Byte) (s : State) : Host.Outcome State Fault Refusal :=
  readInstr (.mem (.zp zp)) eorEffect s

/-- EOR $nn,X (R244, mode R196). -/
def execEorZpX (zp : Byte) (s : State) : Host.Outcome State Fault Refusal :=
  readInstr (.mem (.zpX zp)) eorEffect s

/-- EOR $hhll (R244, mode R198). -/
def execEorAbs (addr : Addr) (s : State) : Host.Outcome State Fault Refusal :=
  readInstr (.mem (.abs addr)) eorEffect s

/-- EOR $hhll,X (R244, mode R199). -/
def execEorAbsX (addr : Addr) (s : State) : Host.Outcome State Fault Refusal :=
  readInstr (.mem (.absX addr)) eorEffect s

/-- EOR $hhll,Y (R244, mode R200). -/
def execEorAbsY (addr : Addr) (s : State) : Host.Outcome State Fault Refusal :=
  readInstr (.mem (.absY addr)) eorEffect s

/-- EOR ($nn,X) (R244, mode R201). -/
def execEorIndX (zp : Byte) (s : State) : Host.Outcome State Fault Refusal :=
  readInstr (.mem (.indX zp)) eorEffect s

/-- EOR ($nn),Y (R244, mode R202). -/
def execEorIndY (zp : Byte) (s : State) : Host.Outcome State Fault Refusal :=
  readInstr (.mem (.indY zp)) eorEffect s

/-- CMP #$nn (R245, mode R194). -/
def execCmpImm (imm : Byte) (s : State) : Host.Outcome State Fault Refusal :=
  readInstr (.imm imm) cmpEffect s

/-- CMP $nn (R245, mode R195). -/
def execCmpZp (zp : Byte) (s : State) : Host.Outcome State Fault Refusal :=
  readInstr (.mem (.zp zp)) cmpEffect s

/-- CMP $nn,X (R245, mode R196). -/
def execCmpZpX (zp : Byte) (s : State) : Host.Outcome State Fault Refusal :=
  readInstr (.mem (.zpX zp)) cmpEffect s

/-- CMP $hhll (R245, mode R198). -/
def execCmpAbs (addr : Addr) (s : State) : Host.Outcome State Fault Refusal :=
  readInstr (.mem (.abs addr)) cmpEffect s

/-- CMP $hhll,X (R245, mode R199). -/
def execCmpAbsX (addr : Addr) (s : State) : Host.Outcome State Fault Refusal :=
  readInstr (.mem (.absX addr)) cmpEffect s

/-- CMP $hhll,Y (R245, mode R200). -/
def execCmpAbsY (addr : Addr) (s : State) : Host.Outcome State Fault Refusal :=
  readInstr (.mem (.absY addr)) cmpEffect s

/-- CMP ($nn,X) (R245, mode R201). -/
def execCmpIndX (zp : Byte) (s : State) : Host.Outcome State Fault Refusal :=
  readInstr (.mem (.indX zp)) cmpEffect s

/-- CMP ($nn),Y (R245, mode R202). -/
def execCmpIndY (zp : Byte) (s : State) : Host.Outcome State Fault Refusal :=
  readInstr (.mem (.indY zp)) cmpEffect s

/-- CPX #$nn (R246, mode R194). -/
def execCpxImm (imm : Byte) (s : State) : Host.Outcome State Fault Refusal :=
  readInstr (.imm imm) cpxEffect s

/-- CPX $nn (R246, mode R195). -/
def execCpxZp (zp : Byte) (s : State) : Host.Outcome State Fault Refusal :=
  readInstr (.mem (.zp zp)) cpxEffect s

/-- CPX $hhll (R246, mode R198). -/
def execCpxAbs (addr : Addr) (s : State) : Host.Outcome State Fault Refusal :=
  readInstr (.mem (.abs addr)) cpxEffect s

/-- CPY #$nn (R247, mode R194). -/
def execCpyImm (imm : Byte) (s : State) : Host.Outcome State Fault Refusal :=
  readInstr (.imm imm) cpyEffect s

/-- CPY $nn (R247, mode R195). -/
def execCpyZp (zp : Byte) (s : State) : Host.Outcome State Fault Refusal :=
  readInstr (.mem (.zp zp)) cpyEffect s

/-- CPY $hhll (R247, mode R198). -/
def execCpyAbs (addr : Addr) (s : State) : Host.Outcome State Fault Refusal :=
  readInstr (.mem (.abs addr)) cpyEffect s

/-- BIT $nn (R248, mode R195). -/
def execBitZp (zp : Byte) (s : State) : Host.Outcome State Fault Refusal :=
  readInstr (.mem (.zp zp)) bitEffect s

/-- BIT $hhll (R248, mode R198). -/
def execBitAbs (addr : Addr) (s : State) : Host.Outcome State Fault Refusal :=
  readInstr (.mem (.abs addr)) bitEffect s

/-- INC $nn (R249, mode R195). -/
def execIncZp (zp : Byte) (s : State) : Host.Outcome State Fault Refusal :=
  rmwInstr (.zp zp) incOp s

/-- INC $nn,X (R249, mode R196). -/
def execIncZpX (zp : Byte) (s : State) : Host.Outcome State Fault Refusal :=
  rmwInstr (.zpX zp) incOp s

/-- INC $hhll (R249, mode R198). -/
def execIncAbs (addr : Addr) (s : State) : Host.Outcome State Fault Refusal :=
  rmwInstr (.abs addr) incOp s

/-- INC $hhll,X (R249, mode R199). -/
def execIncAbsX (addr : Addr) (s : State) : Host.Outcome State Fault Refusal :=
  rmwInstr (.absX addr) incOp s

/-- DEC $nn (R250, mode R195). -/
def execDecZp (zp : Byte) (s : State) : Host.Outcome State Fault Refusal :=
  rmwInstr (.zp zp) decOp s

/-- DEC $nn,X (R250, mode R196). -/
def execDecZpX (zp : Byte) (s : State) : Host.Outcome State Fault Refusal :=
  rmwInstr (.zpX zp) decOp s

/-- DEC $hhll (R250, mode R198). -/
def execDecAbs (addr : Addr) (s : State) : Host.Outcome State Fault Refusal :=
  rmwInstr (.abs addr) decOp s

/-- DEC $hhll,X (R250, mode R199). -/
def execDecAbsX (addr : Addr) (s : State) : Host.Outcome State Fault Refusal :=
  rmwInstr (.absX addr) decOp s

/-- INX: `X <- X + 1; setNZ(X)` (R251). -/
def execInx (s : State) : Host.Outcome State Fault Refusal :=
  impliedInstr 2 (fun s => loadX (s.x + 1) s) s

/-- INY: `Y <- Y + 1; setNZ(Y)` (R252). -/
def execIny (s : State) : Host.Outcome State Fault Refusal :=
  impliedInstr 2 (fun s => loadY (s.y + 1) s) s

/-- DEX: `X <- X - 1; setNZ(X)` (R253). -/
def execDex (s : State) : Host.Outcome State Fault Refusal :=
  impliedInstr 2 (fun s => loadX (s.x - 1) s) s

/-- DEY: `Y <- Y - 1; setNZ(Y)` (R254). -/
def execDey (s : State) : Host.Outcome State Fault Refusal :=
  impliedInstr 2 (fun s => loadY (s.y - 1) s) s

end Sys2Proof.Machine
end

