-- ==== Sys2Proof/Machine/Control.lean ====
section
/-! DEFINITION. Branches, jumps, subroutines, BRK and RTI (44_control_transfer.md rules R280 to R294).
One meaning per opcode, over the shared operations of Operands.lean and Ops.lean. -/

namespace Sys2Proof.Machine

/-- BCC label (R281, mode R204). -/
def execBcc (off : Byte) (s : State) : Host.Outcome State Fault Refusal :=
  branchInstr (!s.p.c) off s

/-- BCS label (R282, mode R204). -/
def execBcs (off : Byte) (s : State) : Host.Outcome State Fault Refusal :=
  branchInstr s.p.c off s

/-- BEQ label (R283, mode R204). -/
def execBeq (off : Byte) (s : State) : Host.Outcome State Fault Refusal :=
  branchInstr s.p.z off s

/-- BMI label (R284, mode R204). -/
def execBmi (off : Byte) (s : State) : Host.Outcome State Fault Refusal :=
  branchInstr s.p.n off s

/-- BNE label (R285, mode R204). -/
def execBne (off : Byte) (s : State) : Host.Outcome State Fault Refusal :=
  branchInstr (!s.p.z) off s

/-- BPL label (R286, mode R204). -/
def execBpl (off : Byte) (s : State) : Host.Outcome State Fault Refusal :=
  branchInstr (!s.p.n) off s

/-- BVC label (R287, mode R204). -/
def execBvc (off : Byte) (s : State) : Host.Outcome State Fault Refusal :=
  branchInstr (!s.p.v) off s

/-- BVS label (R288, mode R204). -/
def execBvs (off : Byte) (s : State) : Host.Outcome State Fault Refusal :=
  branchInstr s.p.v off s

/-- JMP $hhll: `PC <- b2:b1` (R289). -/
def execJmpAbs (addr : Addr) (s : State) : Host.Outcome State Fault Refusal :=
  let s0 := startInstr 3 s
  .next (finishInstr 3 (s0.setPc addr))

/-- JMP ($hhll): the high byte of the target comes from the pointer's own page (R203, R289). -/
def execJmpInd (ptr : Addr) (s : State) : Host.Outcome State Fault Refusal :=
  let s0 := startInstr 3 s
  match read ptr s0 with
  | .error e => .fault e
  | .ok (lo, s1) =>
    match read (hiLo (hiByte ptr) (loByte ptr + 1)) s1 with
    | .error e => .fault e
    | .ok (hi, s2) => .next (finishInstr 5 (s2.setPc (hiLo hi lo)))

/-- JSR $hhll: push the address of the call's last byte, then go (R290). -/
def execJsr (addr : Addr) (s : State) : Host.Outcome State Fault Refusal :=
  let s0 := startInstr 3 s
  .next (finishInstr 6 ((push16 (s.pc + 2) s0).setPc addr))

/-- RTS: `PC <- u16(pull16() + 1)` (R291). -/
def execRts (s : State) : Host.Outcome State Fault Refusal :=
  impliedInstr 6 (fun s => (pull16 s).setPc (pulled16 s + 1)) s

/-- BRK: the return address skips the padding byte; then the software interrupt, or the end of the run (R292). -/
def execBrk (s : State) : Host.Outcome State Fault Refusal :=
  let s0 := startInstr 2 s
  match s0.params.brkPolicy with
  | .vector => .next (finishInstr 7 (takeInterrupt true irqVector s0))
  | .halt => .next (finishInstr 7 (s0.setStatus .halted))

/-- RTI: `b <- pull(); unpack(b); PC <- pull16()` (R293). -/
def execRti (s : State) : Host.Outcome State Fault Refusal :=
  impliedInstr 6 returnFromInterrupt s

end Sys2Proof.Machine
end

