-- ==== Sys2Proof/Machine/LoadStore.lean ====
section
/-! DEFINITION. Loads, stores and transfers (41_load_store_transfer.md rules R220 to R231).
One meaning per opcode, over the shared operations of Operands.lean and Ops.lean. -/

namespace Sys2Proof.Machine

/-- LDA #$nn (R220, mode R194). -/
def execLdaImm (imm : Byte) (s : State) : Host.Outcome State Fault Refusal :=
  readInstr (.imm imm) loadA s

/-- LDA $nn (R220, mode R195). -/
def execLdaZp (zp : Byte) (s : State) : Host.Outcome State Fault Refusal :=
  readInstr (.mem (.zp zp)) loadA s

/-- LDA $nn,X (R220, mode R196). -/
def execLdaZpX (zp : Byte) (s : State) : Host.Outcome State Fault Refusal :=
  readInstr (.mem (.zpX zp)) loadA s

/-- LDA $hhll (R220, mode R198). -/
def execLdaAbs (addr : Addr) (s : State) : Host.Outcome State Fault Refusal :=
  readInstr (.mem (.abs addr)) loadA s

/-- LDA $hhll,X (R220, mode R199). -/
def execLdaAbsX (addr : Addr) (s : State) : Host.Outcome State Fault Refusal :=
  readInstr (.mem (.absX addr)) loadA s

/-- LDA $hhll,Y (R220, mode R200). -/
def execLdaAbsY (addr : Addr) (s : State) : Host.Outcome State Fault Refusal :=
  readInstr (.mem (.absY addr)) loadA s

/-- LDA ($nn,X) (R220, mode R201). -/
def execLdaIndX (zp : Byte) (s : State) : Host.Outcome State Fault Refusal :=
  readInstr (.mem (.indX zp)) loadA s

/-- LDA ($nn),Y (R220, mode R202). -/
def execLdaIndY (zp : Byte) (s : State) : Host.Outcome State Fault Refusal :=
  readInstr (.mem (.indY zp)) loadA s

/-- LDX #$nn (R221, mode R194). -/
def execLdxImm (imm : Byte) (s : State) : Host.Outcome State Fault Refusal :=
  readInstr (.imm imm) loadX s

/-- LDX $nn (R221, mode R195). -/
def execLdxZp (zp : Byte) (s : State) : Host.Outcome State Fault Refusal :=
  readInstr (.mem (.zp zp)) loadX s

/-- LDX $nn,Y (R221, mode R197). -/
def execLdxZpY (zp : Byte) (s : State) : Host.Outcome State Fault Refusal :=
  readInstr (.mem (.zpY zp)) loadX s

/-- LDX $hhll (R221, mode R198). -/
def execLdxAbs (addr : Addr) (s : State) : Host.Outcome State Fault Refusal :=
  readInstr (.mem (.abs addr)) loadX s

/-- LDX $hhll,Y (R221, mode R200). -/
def execLdxAbsY (addr : Addr) (s : State) : Host.Outcome State Fault Refusal :=
  readInstr (.mem (.absY addr)) loadX s

/-- LDY #$nn (R222, mode R194). -/
def execLdyImm (imm : Byte) (s : State) : Host.Outcome State Fault Refusal :=
  readInstr (.imm imm) loadY s

/-- LDY $nn (R222, mode R195). -/
def execLdyZp (zp : Byte) (s : State) : Host.Outcome State Fault Refusal :=
  readInstr (.mem (.zp zp)) loadY s

/-- LDY $nn,X (R222, mode R196). -/
def execLdyZpX (zp : Byte) (s : State) : Host.Outcome State Fault Refusal :=
  readInstr (.mem (.zpX zp)) loadY s

/-- LDY $hhll (R222, mode R198). -/
def execLdyAbs (addr : Addr) (s : State) : Host.Outcome State Fault Refusal :=
  readInstr (.mem (.abs addr)) loadY s

/-- LDY $hhll,X (R222, mode R199). -/
def execLdyAbsX (addr : Addr) (s : State) : Host.Outcome State Fault Refusal :=
  readInstr (.mem (.absX addr)) loadY s

/-- STA $nn (R223, mode R195). -/
def execStaZp (zp : Byte) (s : State) : Host.Outcome State Fault Refusal :=
  writeInstr (.zp zp) s.a s

/-- STA $nn,X (R223, mode R196). -/
def execStaZpX (zp : Byte) (s : State) : Host.Outcome State Fault Refusal :=
  writeInstr (.zpX zp) s.a s

/-- STA $hhll (R223, mode R198). -/
def execStaAbs (addr : Addr) (s : State) : Host.Outcome State Fault Refusal :=
  writeInstr (.abs addr) s.a s

/-- STA $hhll,X (R223, mode R199). -/
def execStaAbsX (addr : Addr) (s : State) : Host.Outcome State Fault Refusal :=
  writeInstr (.absX addr) s.a s

/-- STA $hhll,Y (R223, mode R200). -/
def execStaAbsY (addr : Addr) (s : State) : Host.Outcome State Fault Refusal :=
  writeInstr (.absY addr) s.a s

/-- STA ($nn,X) (R223, mode R201). -/
def execStaIndX (zp : Byte) (s : State) : Host.Outcome State Fault Refusal :=
  writeInstr (.indX zp) s.a s

/-- STA ($nn),Y (R223, mode R202). -/
def execStaIndY (zp : Byte) (s : State) : Host.Outcome State Fault Refusal :=
  writeInstr (.indY zp) s.a s

/-- STX $nn (R224, mode R195). -/
def execStxZp (zp : Byte) (s : State) : Host.Outcome State Fault Refusal :=
  writeInstr (.zp zp) s.x s

/-- STX $nn,Y (R224, mode R197). -/
def execStxZpY (zp : Byte) (s : State) : Host.Outcome State Fault Refusal :=
  writeInstr (.zpY zp) s.x s

/-- STX $hhll (R224, mode R198). -/
def execStxAbs (addr : Addr) (s : State) : Host.Outcome State Fault Refusal :=
  writeInstr (.abs addr) s.x s

/-- STY $nn (R225, mode R195). -/
def execStyZp (zp : Byte) (s : State) : Host.Outcome State Fault Refusal :=
  writeInstr (.zp zp) s.y s

/-- STY $nn,X (R225, mode R196). -/
def execStyZpX (zp : Byte) (s : State) : Host.Outcome State Fault Refusal :=
  writeInstr (.zpX zp) s.y s

/-- STY $hhll (R225, mode R198). -/
def execStyAbs (addr : Addr) (s : State) : Host.Outcome State Fault Refusal :=
  writeInstr (.abs addr) s.y s

/-- TAX: `X <- A; setNZ(X)` (R226). -/
def execTax (s : State) : Host.Outcome State Fault Refusal :=
  impliedInstr 2 (fun s => loadX s.a s) s

/-- TAY: `Y <- A; setNZ(Y)` (R227). -/
def execTay (s : State) : Host.Outcome State Fault Refusal :=
  impliedInstr 2 (fun s => loadY s.a s) s

/-- TSX: `X <- SP; setNZ(X)` (R228). -/
def execTsx (s : State) : Host.Outcome State Fault Refusal :=
  impliedInstr 2 (fun s => loadX s.sp s) s

/-- TXA: `A <- X; setNZ(A)` (R229). -/
def execTxa (s : State) : Host.Outcome State Fault Refusal :=
  impliedInstr 2 (fun s => loadA s.x s) s

/-- TXS: `SP <- X`, no flag (R230). -/
def execTxs (s : State) : Host.Outcome State Fault Refusal :=
  impliedInstr 2 (fun s => s.setSp s.x) s

/-- TYA: `A <- Y; setNZ(A)` (R231). -/
def execTya (s : State) : Host.Outcome State Fault Refusal :=
  impliedInstr 2 (fun s => loadA s.y s) s

end Sys2Proof.Machine
end

