-- ==== Sys2Proof/Machine/Shift.lean ====
section
/-! DEFINITION. Shifts and rotates (43_shift_rotate.md rules R270 to R273).
One meaning per opcode, over the shared operations of Operands.lean and Ops.lean. -/

namespace Sys2Proof.Machine

/-- ASL A (R270, mode R193). -/
def execAslA (s : State) : Host.Outcome State Fault Refusal :=
  accInstr aslOp s

/-- ASL $nn (R270, mode R195). -/
def execAslZp (zp : Byte) (s : State) : Host.Outcome State Fault Refusal :=
  rmwInstr (.zp zp) aslOp s

/-- ASL $nn,X (R270, mode R196). -/
def execAslZpX (zp : Byte) (s : State) : Host.Outcome State Fault Refusal :=
  rmwInstr (.zpX zp) aslOp s

/-- ASL $hhll (R270, mode R198). -/
def execAslAbs (addr : Addr) (s : State) : Host.Outcome State Fault Refusal :=
  rmwInstr (.abs addr) aslOp s

/-- ASL $hhll,X (R270, mode R199). -/
def execAslAbsX (addr : Addr) (s : State) : Host.Outcome State Fault Refusal :=
  rmwInstr (.absX addr) aslOp s

/-- LSR A (R271, mode R193). -/
def execLsrA (s : State) : Host.Outcome State Fault Refusal :=
  accInstr lsrOp s

/-- LSR $nn (R271, mode R195). -/
def execLsrZp (zp : Byte) (s : State) : Host.Outcome State Fault Refusal :=
  rmwInstr (.zp zp) lsrOp s

/-- LSR $nn,X (R271, mode R196). -/
def execLsrZpX (zp : Byte) (s : State) : Host.Outcome State Fault Refusal :=
  rmwInstr (.zpX zp) lsrOp s

/-- LSR $hhll (R271, mode R198). -/
def execLsrAbs (addr : Addr) (s : State) : Host.Outcome State Fault Refusal :=
  rmwInstr (.abs addr) lsrOp s

/-- LSR $hhll,X (R271, mode R199). -/
def execLsrAbsX (addr : Addr) (s : State) : Host.Outcome State Fault Refusal :=
  rmwInstr (.absX addr) lsrOp s

/-- ROL A (R272, mode R193). -/
def execRolA (s : State) : Host.Outcome State Fault Refusal :=
  accInstr rolOp s

/-- ROL $nn (R272, mode R195). -/
def execRolZp (zp : Byte) (s : State) : Host.Outcome State Fault Refusal :=
  rmwInstr (.zp zp) rolOp s

/-- ROL $nn,X (R272, mode R196). -/
def execRolZpX (zp : Byte) (s : State) : Host.Outcome State Fault Refusal :=
  rmwInstr (.zpX zp) rolOp s

/-- ROL $hhll (R272, mode R198). -/
def execRolAbs (addr : Addr) (s : State) : Host.Outcome State Fault Refusal :=
  rmwInstr (.abs addr) rolOp s

/-- ROL $hhll,X (R272, mode R199). -/
def execRolAbsX (addr : Addr) (s : State) : Host.Outcome State Fault Refusal :=
  rmwInstr (.absX addr) rolOp s

/-- ROR A (R273, mode R193). -/
def execRorA (s : State) : Host.Outcome State Fault Refusal :=
  accInstr rorOp s

/-- ROR $nn (R273, mode R195). -/
def execRorZp (zp : Byte) (s : State) : Host.Outcome State Fault Refusal :=
  rmwInstr (.zp zp) rorOp s

/-- ROR $nn,X (R273, mode R196). -/
def execRorZpX (zp : Byte) (s : State) : Host.Outcome State Fault Refusal :=
  rmwInstr (.zpX zp) rorOp s

/-- ROR $hhll (R273, mode R198). -/
def execRorAbs (addr : Addr) (s : State) : Host.Outcome State Fault Refusal :=
  rmwInstr (.abs addr) rorOp s

/-- ROR $hhll,X (R273, mode R199). -/
def execRorAbsX (addr : Addr) (s : State) : Host.Outcome State Fault Refusal :=
  rmwInstr (.absX addr) rorOp s

end Sys2Proof.Machine
end

