-- ==== Sys2Proof/Machine/Stack.lean ====
section
/-! DEFINITION. Stack, flag and no-operation instructions (45_stack_flags_misc.md rules R300 to R311).
One meaning per opcode, over the shared operations of Operands.lean and Ops.lean. -/

namespace Sys2Proof.Machine

/-- PHA: `push(A)` (R300). -/
def execPha (s : State) : Host.Outcome State Fault Refusal :=
  impliedInstr 3 (fun s => push s.a s) s

/-- PHP: `push(pack(1))` (R301). -/
def execPhp (s : State) : Host.Outcome State Fault Refusal :=
  impliedInstr 3 (fun s => push (s.p.pack true) s) s

/-- PLA: `A <- pull(); setNZ(A)` (R302). -/
def execPla (s : State) : Host.Outcome State Fault Refusal :=
  impliedInstr 4 (fun s => loadA (pulled s) (pull s)) s

/-- PLP: `b <- pull(); unpack(b)` (R303). -/
def execPlp (s : State) : Host.Outcome State Fault Refusal :=
  impliedInstr 4 (fun s => (pull s).setP (Flags.unpack (pulled s))) s

/-- CLC: `P.C <- 0` (R304). -/
def execClc (s : State) : Host.Outcome State Fault Refusal :=
  impliedInstr 2 (fun s => s.setP { s.p with c := false }) s

/-- CLD: `P.D <- 0` (R305). -/
def execCld (s : State) : Host.Outcome State Fault Refusal :=
  impliedInstr 2 (fun s => s.setP { s.p with d := false }) s

/-- CLI: `P.I <- 0` (R306). -/
def execCli (s : State) : Host.Outcome State Fault Refusal :=
  impliedInstr 2 (fun s => s.setP { s.p with i := false }) s

/-- CLV: `P.V <- 0` (R307). -/
def execClv (s : State) : Host.Outcome State Fault Refusal :=
  impliedInstr 2 (fun s => s.setP { s.p with v := false }) s

/-- SEC: `P.C <- 1` (R308). -/
def execSec (s : State) : Host.Outcome State Fault Refusal :=
  impliedInstr 2 (fun s => s.setP { s.p with c := true }) s

/-- SED: `P.D <- 1` (R309). -/
def execSed (s : State) : Host.Outcome State Fault Refusal :=
  impliedInstr 2 (fun s => s.setP { s.p with d := true }) s

/-- SEI: `P.I <- 1` (R310). -/
def execSei (s : State) : Host.Outcome State Fault Refusal :=
  impliedInstr 2 (fun s => s.setP { s.p with i := true }) s

/-- NOP: only PC advances (R311). -/
def execNop (s : State) : Host.Outcome State Fault Refusal :=
  impliedInstr 2 (fun s => s) s

end Sys2Proof.Machine
end

