-- ==== Sys2Proof/Machine/Tick.lean ====
section
/-! DEFINITION. The PPU state machine (60_exceptions.md rules R360 to R391): the counters, the background pipeline, the
pixel output, vertical blank and the end of a frame. A tick touches the picture unit only. -/

namespace Sys2Proof.Machine

/-- `rendering_enabled()` (R370). -/
def renderingEnabled (u : Ppu) : Bool := u.mask.getLsbD 3 || u.mask.getLsbD 4

/-- `wrap()`: the frame is over and its copy handed out (R390). -/
def Ppu.wrap (u : Ppu) : Ppu :=
  { u with oddFrame := !u.oddFrame, presented := some u.frame, frameComplete := true }

/-- The counters are where the odd-frame skip applies (R361). -/
def Ppu.skipsDot (skip : Bool) (u : Ppu) : Bool :=
  skip && u.oddFrame && renderingEnabled u && u.scanline == 261 && u.dot == 339

/-- `advance()`: the next position, and whether a frame just completed (R361). -/
def Ppu.advance (skip : Bool) (u : Ppu) : Ppu × Bool :=
  if u.skipsDot skip then (({ u with scanline := 0, dot := 0 } : Ppu).wrap, true)
  else if u.dot < 340 then ({ u with dot := u.dot + 1 }, false)
  else if u.scanline < 261 then ({ u with scanline := u.scanline + 1, dot := 0 }, false)
  else (({ u with scanline := 0, dot := 0 } : Ppu).wrap, true)

/-- `shift_bg()` (R372). -/
def Ppu.shiftBg (u : Ppu) : Ppu :=
  { u with shPatLo := u.shPatLo <<< 1, shPatHi := u.shPatHi <<< 1
           shAttLo := u.shAttLo <<< 1, shAttHi := u.shAttHi <<< 1 }

/-- The low byte of a shift register replaced (R372). -/
def loadLow (sh : BitVec 16) (b : Byte) : BitVec 16 := (sh &&& 0xFF00#16) ||| b.setWidth 16

/-- All ones for a palette-group bit of 1, else 0 (R372). -/
def spread (b : Bool) : Byte := if b then 0xFF#8 else 0x00#8

/-- `load_bg()` (R372). -/
def Ppu.loadBg (u : Ppu) : Ppu :=
  { u with shPatLo := loadLow u.shPatLo u.ptLoLatch, shPatHi := loadLow u.shPatHi u.ptHiLatch
           shAttLo := loadLow u.shAttLo (spread (u.atLatch.getLsbD 0))
           shAttHi := loadLow u.shAttHi (spread (u.atLatch.getLsbD 1)) }

/-- The address `fetch_nt` reads (R374). -/
def Ppu.ntAddr (u : Ppu) : PpuAddr := 0x2000#14 ||| (u.v &&& 0x0FFF#15).setWidth 14

/-- The address `fetch_at` reads (R374). -/
def Ppu.atAddr (u : Ppu) : PpuAddr :=
  0x23C0#14 ||| (u.v &&& 0x0C00#15).setWidth 14 ||| ((u.v >>> 4) &&& 0x38#15).setWidth 14 |||
    ((u.v >>> 2) &&& 0x07#15).setWidth 14

/-- The address `fetch_pt_lo` reads (R374). -/
def Ppu.ptAddr (u : Ppu) : PpuAddr :=
  BitVec.ofNat 14 ((if u.ctrl.getLsbD 4 then 0x1000 else 0) + u.ntLatch.toNat * 16 + (u.v >>> 12).toNat)

/-- `fetch_nt()` (R374). No rendering fetch is in the palette, so none depends on a `draw()` (R385, log 11). -/
def Ppu.fetchNt (c : Cartridge) (u : Ppu) : Ppu := { u with ntLatch := ppuRead c u 0 u.ntAddr }

/-- `fetch_at()` (R374): coarse Y bit 1 and coarse X bit 1 select the two bits. -/
def Ppu.fetchAt (c : Cartridge) (u : Ppu) : Ppu :=
  let b := ppuRead c u 0 u.atAddr
  let b := if u.v.getLsbD 6 then b >>> 4 else b
  let b := if u.v.getLsbD 1 then b >>> 2 else b
  { u with atLatch := b.setWidth 2 }

/-- `fetch_pt_lo()` (R374). -/
def Ppu.fetchPtLo (c : Cartridge) (u : Ppu) : Ppu := { u with ptLoLatch := ppuRead c u 0 u.ptAddr }

/-- `fetch_pt_hi()` (R374). -/
def Ppu.fetchPtHi (c : Cartridge) (u : Ppu) : Ppu := { u with ptHiLatch := ppuRead c u 0 (u.ptAddr + 8) }

/-- `inc_coarse_x()` on `v` (R375). -/
def incCoarseX (v : VAddr) : VAddr :=
  if v &&& 0x001F#15 = 0x001F#15 then (v &&& ~~~0x001F#15) ^^^ 0x0400#15 else v + 1

/-- `inc_y()` on `v` (R376). -/
def incY (v : VAddr) : VAddr :=
  if v &&& 0x7000#15 ≠ 0x7000#15 then v + 0x1000
  else
    let w := v &&& ~~~0x7000#15
    let row := w &&& 0x03E0#15
    if row = 0x03A0#15 then (w &&& ~~~0x03E0#15) ^^^ 0x0800#15
    else if row = 0x03E0#15 then w &&& ~~~0x03E0#15
    else w + 0x0020

/-- `copy_horizontal()` (R377). -/
def Ppu.copyHorizontal (u : Ppu) : Ppu := { u with v := (u.v &&& ~~~0x041F#15) ||| (u.t &&& 0x041F#15) }

/-- `copy_vertical()` (R377). -/
def Ppu.copyVertical (u : Ppu) : Ppu := { u with v := (u.v &&& ~~~0x7BE0#15) ||| (u.t &&& 0x7BE0#15) }

/-- The work of one of the eight dots of a tile fetch (R371). -/
def Ppu.fetchPhase (c : Cartridge) (phase : Nat) (u : Ppu) : Ppu :=
  match phase with
  | 0 => u.loadBg.fetchNt c
  | 2 => u.fetchAt c
  | 4 => u.fetchPtLo c
  | 6 => u.fetchPtHi c
  | 7 => { u with v := incCoarseX u.v }
  | _ => u

/-- The dots that shift and fetch (R371). -/
def fetchDot (d : Nat) : Bool := decide ((2 ≤ d ∧ d ≤ 257) ∨ (321 ≤ d ∧ d ≤ 337))

/-- `background_work(s, d)` at dot `d` of a visible or the pre-render line, in the order written (R371). -/
def Ppu.backgroundDot (c : Cartridge) (s d : Nat) (u : Ppu) : Ppu :=
  let u := if fetchDot d then Ppu.fetchPhase c ((d - 1) % 8) u.shiftBg else u
  let u := if d = 256 then { u with v := incY u.v } else u
  let u := if d = 257 then u.loadBg.copyHorizontal else u
  if s = 261 ∧ 280 ≤ d ∧ d ≤ 304 then u.copyVertical else u

/-- `background_work` at the current position: lines 0 to 239 and 261 only (R363, R371). -/
def Ppu.backgroundWork (c : Cartridge) (u : Ppu) : Ppu :=
  if u.scanline ≤ 239 ∨ u.scanline = 261 then Ppu.backgroundDot c u.scanline u.dot u else u

/-- Two bits of the shift registers at fine X (R378). -/
def twoBits (hi lo : BitVec 16) (x : BitVec 3) : Nat :=
  let m := 0x8000#16 >>> x.toNat
  (if hi &&& m ≠ 0 then 2 else 0) + (if lo &&& m ≠ 0 then 1 else 0)

/-- The background is shown at column `x`: not hidden, and not clipped at the left edge (R378). -/
def Ppu.bgShown (u : Ppu) (x : Nat) : Bool := u.mask.getLsbD 3 && (decide (8 ≤ x) || u.mask.getLsbD 1)

/-- `idx` of R378: 0 for the backdrop. -/
def Ppu.pixelIndex (u : Ppu) (x : Nat) : Nat :=
  if u.bgShown x then
    let p := twoBits u.shPatHi u.shPatLo u.x
    if p = 0 then 0 else twoBits u.shAttHi u.shAttLo u.x * 4 + p
  else 0

/-- The resolved colour at column `x`, with greyscale (R378). -/
def Ppu.pixelColour (u : Ppu) (x : Nat) : Colour :=
  let colour := u.paletteAt (BitVec.ofNat 14 (0x3F00 + u.pixelIndex x))
  if u.mask.getLsbD 0 then colour &&& 0x30#6 else colour

/-- The pixel at column `x`: the emphasis bits above the colour (R378). -/
def Ppu.pixel (u : Ppu) (x : Nat) : Pixel :=
  ((u.mask >>> 5).setWidth 9 <<< 6) ||| (u.pixelColour x).setWidth 9

/-- The pixel of a frame at line `y`, column `x` (R71). -/
def Frame.pixelAt (f : Frame) (y x : Nat) : Pixel := Memory.read 0 (Memory.read [] f y) x

/-- The frame with the pixel at line `y`, column `x` set (R71). -/
def Frame.setPixel (f : Frame) (y x : Nat) (p : Pixel) : Frame :=
  Memory.write [] f y (Memory.write 0 (Memory.read [] f y) x p)

/-- `output_pixel(y, x)` (R378). -/
def Ppu.outputPixel (y x : Nat) (u : Ppu) : Ppu := { u with frame := Frame.setPixel u.frame y x (u.pixel x) }

/-- `vblank_start()` (R380): the flag always, the NMI when PPUCTRL bit 7 is 1. -/
def Ppu.vblankStart (u : Ppu) : Ppu :=
  { u with vblank := true, nmiPending := u.nmiPending || u.ctrl.getLsbD 7 }

/-- `prerender_clear()` (R382). -/
def Ppu.prerenderClear (u : Ppu) : Ppu :=
  { u with vblank := false, sprite0Hit := false, spriteOverflow := false, nmiPending := false }

/-- The work of a tick at the new position, in the order of R360. -/
def Ppu.dotWork (c : Cartridge) (u : Ppu) : Ppu :=
  let u := if renderingEnabled u then u.backgroundWork c else u
  let u := if u.scanline ≤ 239 ∧ 1 ≤ u.dot ∧ u.dot ≤ 256 then u.outputPixel u.scanline (u.dot - 1) else u
  let u := if u.scanline = 241 ∧ u.dot = 1 then u.vblankStart else u
  if u.scanline = 261 ∧ u.dot = 1 then u.prerenderClear else u

/-- What a tick reports (R360, R391). -/
structure TickResult where
  ppu : Ppu
  frameDone : Bool
  nmiNew : Bool
  deriving DecidableEq, Repr

/-- `tick()`: one dot (R360). -/
def tick (c : Cartridge) (skip : Bool) (u : Ppu) : TickResult :=
  let adv := u.advance skip
  { ppu := adv.1.dotWork c
    frameDone := adv.2
    nmiNew := adv.1.scanline == 241 && adv.1.dot == 1 && adv.1.ctrl.getLsbD 7 }

/-- What a run of ticks reports: the picture unit after it, whether a tick asserted NMI, and the frames completed, in
order (R391). -/
structure TicksResult where
  ppu : Ppu
  nmiNew : Bool
  frames : List Frame
  deriving DecidableEq, Repr

/-- `n` ticks (60_exceptions.md rule R410). -/
def ticks (c : Cartridge) (skip : Bool) : Nat → Ppu → TicksResult
  | 0, u => { ppu := u, nmiNew := false, frames := [] }
  | n + 1, u =>
    let r := tick c skip u
    let rs := ticks c skip n r.ppu
    { ppu := rs.ppu
      nmiNew := r.nmiNew || rs.nmiNew
      frames := (if r.frameDone then r.ppu.presented.toList else []) ++ rs.frames }

end Sys2Proof.Machine
end

