-- ==== Sys2Proof/Machine/Driver.lean ====
section
/-! DEFINITION. What the driver does around an instruction: the interrupt check (60_exceptions.md rule R330), the NMI and IRQ
entries (R340, R342), the fetch (40_addressing.md rule R190), the PPU's dots and the driver's checks (R410), and placing an
instruction where the next step fetches it. -/

namespace Sys2Proof.Machine

/-- What the interrupt check selects (R330). -/
inductive Event where
  | nmi | irq | step
  deriving DecidableEq, Repr

/-- The interrupt check of a running machine: NMI, then IRQ, then the next instruction (R330, R331). -/
def event (s : State) : Event :=
  if s.nmiRequest then .nmi else if s.irqLine && !s.p.i then .irq else .step

/-- `nmi_entry()`, 7 cycles (R340). -/
def nmiEntry (s : State) : State :=
  ((takeInterrupt s.params.pushBOnHwInterrupt nmiVector s).setNmiRequest false).setCycles 7

/-- `irq_entry()`, 7 cycles; the line stays as the host drives it (R342). -/
def irqEntry (s : State) : State :=
  (takeInterrupt s.params.pushBOnHwInterrupt irqVector s).setCycles 7

/-- The fetch of R190: the opcode byte at PC, then the operand bytes its mode has, each a bus read with its side effects
(20_memory.md rule R154). An undefined opcode faults before any operand byte is read (R322). PC is advanced by `exec`. -/
def fetch (s : State) : Except Fault (Instr × State) :=
  match read s.pc s with
  | .error e => .error e
  | .ok (op, s1) =>
    match lookupOp op with
    | none => .error (.decodeError s.pc)
    | some row =>
      match row.mode.operandBytes with
      | 0 => .ok (row.instr 0 0, s1)
      | 1 =>
        match read (s.pc + 1) s1 with
        | .error e => .error e
        | .ok (b1, s2) => .ok (row.instr b1 0, s2)
      | _ =>
        match read (s.pc + 1) s1 with
        | .error e => .error e
        | .ok (b1, s2) =>
          match read (s.pc + 2) s2 with
          | .error e => .error e
          | .ok (b2, s3) => .ok (row.instr b1 b2, s3)

/-- The PPU's dots for the cycles a CPU step took (R410). -/
def stepTicks (s : State) : TicksResult :=
  ticks s.cart s.params.oddFrameSkip (Config.dotsPerCycle * s.cycles) s.ppu

/-- The frames a step hands to the presentation: each frame a tick completed; and, should a completion flag stand with no
tick having reported one, the presented frame it stands for (R391, R392, R410, log 9). -/
def stepFrames (r : TicksResult) : List Frame :=
  if r.frames.isEmpty && r.ppu.frameComplete then r.ppu.presented.toList else r.frames

/-- The rest of a driver step after the CPU's part: `DOTS_PER_CYCLE * cycles` ticks, the NMI poll, the hand-off of completed
frames, and the cycle total (R410). A step long enough to pass both (241, 1) and (261, 1), which takes an OAM_DMA_CYCLES above
2266, ends with `nmi_pending` clear again (R382) although a tick asserted the NMI: the model requests it by that tick's
report (R341, R391). DESIGN CHOICE (log 25). -/
def afterCpu (s : State) : State :=
  let r := stepTicks s
  { s with
    ppu := { r.ppu with nmiPending := false, frameComplete := false }
    nmiRequest := s.nmiRequest || (r.nmiNew || r.ppu.nmiPending)
    frames := s.frames ++ stepFrames r
    cyclesTotal := s.cyclesTotal + s.cycles }

/-- An address whose byte can be placed: RAM or PRG. -/
def placeable (a : Addr) : Bool := decide (a.toNat < 0x2000 ∨ 0x8000 ≤ a.toNat)

/-- The machine with the byte of RAM or PRG at an address set; PRG is set as another cartridge image would set it. -/
def placeByte (a : Addr) (b : Byte) (s : State) : State :=
  if a.toNat < 0x2000 then s.ramPut a b
  else if 0x8000 ≤ a.toNat then
    s.setCart { s.cart with prg := Memory.write 0 s.cart.prg (prgIndex s.cart.banks a) b }
  else s

/-- The machine about to fetch at its PC: running, no interrupt to be taken first, and PC where three bytes can be placed
(at 0x8000 if it is elsewhere) (log 5). -/
def readyToFetch (s : State) : State :=
  let s1 := ((s.setStatus .running).setNmiRequest false).setIrqLine (s.irqLine && s.p.i)
  if placeable s.pc && placeable (s.pc + 1) && placeable (s.pc + 2) then s1 else s1.setPc 0x8000

/-- The bytes placed one after the other from an address on. -/
def placeBytes : Addr → List Byte → State → State
  | _, [], s => s
  | a, b :: bs, s => placeBytes (a + 1) bs (placeByte a b s)

end Sys2Proof.Machine
end

