-- ==== Sys2Proof/Machine/Step.lean ====
section
/-! DEFINITION. One step of the machine: the driver step of 60_exceptions.md rule R410, as an outcome (log 6, log 7). -/

namespace Sys2Proof.Machine

/-- One driver step (R410). A running machine takes the event of R330 and then the PPU's dots; a fault answers the fault, the
state being as before the step (R325). A halted machine is left as it is and a faulted one stays stopped by its fault: neither
has a step (R41, R326; 93_implementation_defined.md I23). -/
def step (s : State) : Host.Outcome State Fault Refusal :=
  match s.status with
  | .halted => .next s
  | .faulted r => .fault r
  | .running =>
    match event s with
    | .nmi => .next (afterCpu (nmiEntry s))
    | .irq => .next (afterCpu (irqEntry s))
    | .step =>
      match fetch s with
      | .error r => .fault r
      | .ok (i, s1) =>
        match exec i s1 with
        | .next s2 => .next (afterCpu s2)
        | .fault r => .fault r
        | .refused r => .refused r

/-- The machine with an instruction of `nbits` bits `w` where the next step fetches it (log 5). -/
def State.withFetchWord (s : State) (nbits w : Nat) : State :=
  placeBytes (readyToFetch s).pc (tableBytes nbits w) (readyToFetch s)

end Sys2Proof.Machine
end

