-- ==== Sys2Proof/Machine/HostPort.lean ====
section
/-! DEFINITION. What the host can do to the machine (60_exceptions.md rule R420), all between driver steps: ingest a
cartridge, power on, set the buttons, drive the IRQ line, reset, and run the driver. -/

namespace Sys2Proof.Machine

/-- The layout of an accepted image (20_memory.md rule R120). -/
def mirroringOf : Layout → Mirroring
  | .horizontal => .horizontal
  | .vertical => .vertical
  | .other => .vertical

/-- The number of PRG banks of an image of an accepted size (20_memory.md rule R120). -/
def banksOf (size : Nat) : PrgBanks := if size = prgBankSize then .one else .two

/-- Cartridge ingestion: the accepted cartridge, or the first error of R120 (60_exceptions.md rule R323). -/
def ingest (c : CartridgeImage) : Except ConstructionError Cartridge :=
  match c.check with
  | some e => .error e
  | none =>
    .ok { banks := banksOf c.prg.length
          prg := Memory.ofList 0 c.prg.length c.prg
          chr := Memory.ofList 0 c.chr.length c.chr
          mirroring := mirroringOf c.layout }

/-- The picture unit after power-on (70_reset_and_hazards.md rules R430, R431). -/
def Ppu.powerOn (ini : InitParams) : Ppu :=
  { Ppu.reset with
    vram := Memory.ofList 0 0x800 ini.vram
    palette := Memory.ofList 0 0x20 (ini.palette.map (fun b => b.setWidth 6))
    oam := Memory.ofList 0 0x100 ini.oam }

/-- Power-on of an accepted cartridge (70_reset_and_hazards.md rule R430). -/
def powerOn (cart : Cartridge) (params : Params) (ini : InitParams) : State :=
  let s : State :=
    { State.reset with
      a := ini.a, x := ini.x, y := ini.y
      ram := Memory.ofList 0 0x800 ini.ram
      ppu := Ppu.powerOn ini
      cart := cart, params := params }
  s.setPc (s.vectorAt resetVector)

/-- `set_buttons(b)` (60_exceptions.md rule R404). -/
def setButtons (b : Byte) (s : State) : State :=
  s.setCtl { s.ctl with buttons := b, shift := if s.ctl.strobe then b else s.ctl.shift }

/-- The host's IRQ input (60_exceptions.md rule R342; 10_state.md rule R83). -/
def driveIrqLine (level : Bool) (s : State) : State := s.setIrqLine level

/-- `host_reset()`: the CPU alone, from any run status (70_reset_and_hazards.md rule R432). -/
def hostReset (s : State) : State :=
  { s with
    sp := s.sp - 3
    p := Flags.reset
    pc := s.vectorAt resetVector
    nmiRequest := false
    status := .running
    cyclesTotal := s.cyclesTotal + 7 }

/-- The machine a fault leaves: the state before the step, with the fault as its status (60_exceptions.md rule R325). The
count of drawn bytes is no state of the spec's (10_state.md rule R84), and a fault does not set it back: it moves past every
byte the faulted step can have drawn, so that no later read, after a host reset, gives one of them again (00_scope.md rule
R17). DESIGN CHOICE (log 1). -/
def State.faultedBy (r : Fault) (s : State) : State :=
  (s.setStatus (.faulted r)).setDraws (s.draws + Config.drawsPerStep)

/-- `driver_step()` as a function of the state alone: a running machine takes the step, and one that faults is left as
`faultedBy` says; a stopped machine stays as it is (60_exceptions.md rules R325, R326, R410; log 1, log 6, log 7). -/
def driverStep (s : State) : State :=
  match s.status with
  | .halted | .faulted _ => s
  | .running =>
    match step s with
    | .next t => t
    | .fault r => s.faultedBy r
    | .refused _ => s

/-- `run_frame()` (60_exceptions.md rule R414), for at most `fuel` driver steps; none when that is too few (log 16). -/
def runFrameFrom (k : Nat) : Nat → State → Option State
  | 0, s => if s.status = .running ∧ s.frames.length = k then none else some s
  | fuel + 1, s =>
    if s.status = .running ∧ s.frames.length = k then runFrameFrom k fuel (driverStep s) else some s

/-- `run_frame()`: the machine after it, with its status, and the new frame if there is one (60_exceptions.md rule R414). -/
def runFrame (fuel : Nat) (s : State) : Option (State × Option Frame) :=
  (runFrameFrom s.frames.length fuel s).map (fun t => (t, t.frames[s.frames.length]?))

/-- `run_until_stop()` (60_exceptions.md rule R415), for at most `fuel` driver steps; none when that is too few (log 16). -/
def runUntilStop : Nat → State → Option State
  | 0, s => if s.status = .running then none else some s
  | fuel + 1, s => if s.status = .running then runUntilStop fuel (driverStep s) else some s

end Sys2Proof.Machine
end

