-- ==== Sys2Proof/Safety.lean ====
section
/-! DEFINITION. What claims are stated in terms of: the invariant of the machine, the states a run can reach, and a safe
step. -/

namespace Sys2Proof.Machine

/-- A frame in canonical form: 240 lines of 256 pixels, an all-0 line or a 0 pixel not listed (10_state.md rule R71). -/
def Frame.wf (f : Frame) : Bool :=
  Memory.wf [] f && Memory.below 240 f && f.all (fun row => Memory.wf 0 row.2 && Memory.below 256 row.2)

/-- The palette: 32 places in canonical form (10_state.md rule R69). Of those, `pal_index` never gives 0x10, 0x14, 0x18 and
0x1C (20_memory.md rule R135). -/
def paletteWf (p : Memory Colour) : Bool := Memory.wf 0 p && Memory.below 0x20 p

/-- A memory of `n` bytes in canonical form. -/
def bytesWf (n : Nat) (m : Memory Byte) : Bool := Memory.wf 0 m && Memory.below n m

/-- The invariant of the picture unit: its memories have their form and size, its position is a dot of a frame
(10_state.md rules R58, R68 to R71), and the sprite flags are clear (60_exceptions.md rule R386). -/
structure Ppu.Inv (u : Ppu) : Prop where
  vram : bytesWf 0x800 u.vram = true
  palette : paletteWf u.palette = true
  oam : bytesWf 0x100 u.oam = true
  frame : Frame.wf u.frame = true
  presented : ∀ f, u.presented = some f → Frame.wf f = true
  scanline : u.scanline < 262
  dot : u.dot < 341
  sprite0Hit : u.sprite0Hit = false
  spriteOverflow : u.spriteOverflow = false

/-- The form of an accepted cartridge (20_memory.md rule R120). -/
structure Cartridge.Inv (c : Cartridge) : Prop where
  prg : bytesWf c.banks.size c.prg = true
  chr : bytesWf chrSize c.chr = true

/-- The invariant of the machine between driver steps: besides the above, RAM has its form and size (10_state.md rule R81),
the controller's latch follows the buttons while the strobe is 1 (60_exceptions.md rule R401), and the driver has taken
both of the PPU's flags (60_exceptions.md rule R410). -/
structure State.Inv (s : State) : Prop where
  ram : bytesWf 0x800 s.ram = true
  ppu : s.ppu.Inv
  cart : s.cart.Inv
  frames : ∀ f ∈ s.frames, Frame.wf f = true
  latch : s.ctl.strobe = true → s.ctl.shift = s.ctl.buttons
  nmiTaken : s.ppu.nmiPending = false
  frameTaken : s.ppu.frameComplete = false

/-- The states of a run: from the power-on of an accepted cartridge, by driver steps and the host's moves
(60_exceptions.md rule R420). -/
inductive Reachable : State → Prop where
  | powerOn (img : CartridgeImage) (cart : Cartridge) (params : Params) (ini : InitParams) :
      ingest img = .ok cart → Reachable (powerOn cart params ini)
  | step (s t : State) : Reachable s → step s = .next t → Reachable t
  | fault (s : State) (r : Fault) :
      Reachable s → s.status = .running → step s = .fault r → Reachable (s.faultedBy r)
  | setButtons (b : Byte) (s : State) : Reachable s → Reachable (setButtons b s)
  | driveIrqLine (level : Bool) (s : State) : Reachable s → Reachable (driveIrqLine level s)
  | hostReset (s : State) : Reachable s → Reachable (hostReset s)

/-- A step that ends in no fault. -/
def SafeStep (s : State) : Prop := ∀ r, step s ≠ .fault r

/-- OAM DMA from this page reaches the unmapped addresses: page 0x40 (60_exceptions.md rule R321; 70_reset_and_hazards.md
rule R447). -/
def dmaFaults (d : Byte) : Bool := d == 0x40#8

/-- A store of `v` at `a` faults exactly then (20_memory.md rules R113, R115). -/
def storeFaults (a : Addr) (v : Byte) : Bool := unmapped a || (a == 0x4014#16 && dmaFaults v)

end Sys2Proof.Machine
end

