-- ==== Sys2Proof/Certificates/Slice0/Obligations.lean ====
section
/-! DEFINITION. The statements for the provers. The first part, in the namespace Claims, writes down from the spec what the
statements compare the model with: each instruction's forms with their bytes and cycle counts, the lists of who writes what,
and short names for what a rule says. The second part states the obligations. -/

namespace Sys2Proof.Claims

open Sys2Proof.Machine

/-! ### Encodings -/

/-- The instruction is encoded as these bytes, and these bytes decode to it whatever follows. -/
def Encodes (i : Instr) (bytes : List Byte) : Prop :=
  encode i = bytes ∧ ∀ rest, decode (bytes ++ rest) = .ok (i, rest)

/-- The 105 undefined opcode bytes, as rule R170 lists them. -/
def undefinedBytes : List Byte :=
  [0x02, 0x03, 0x04, 0x07, 0x0B, 0x0C, 0x0F, 0x12, 0x13, 0x14, 0x17, 0x1A, 0x1B, 0x1C, 0x1F, 0x22,
   0x23, 0x27, 0x2B, 0x2F, 0x32, 0x33, 0x34, 0x37, 0x3A, 0x3B, 0x3C, 0x3F, 0x42, 0x43, 0x44, 0x47,
   0x4B, 0x4F, 0x52, 0x53, 0x54, 0x57, 0x5A, 0x5B, 0x5C, 0x5F, 0x62, 0x63, 0x64, 0x67, 0x6B, 0x6F,
   0x72, 0x73, 0x74, 0x77, 0x7A, 0x7B, 0x7C, 0x7F, 0x80, 0x82, 0x83, 0x87, 0x89, 0x8B, 0x8F, 0x92,
   0x93, 0x97, 0x9B, 0x9C, 0x9E, 0x9F, 0xA3, 0xA7, 0xAB, 0xAF, 0xB2, 0xB3, 0xB7, 0xBB, 0xBF, 0xC2,
   0xC3, 0xC7, 0xCB, 0xCF, 0xD2, 0xD3, 0xD4, 0xD7, 0xDA, 0xDB, 0xDC, 0xDF, 0xE2, 0xE3, 0xE7, 0xEB,
   0xEF, 0xF2, 0xF3, 0xF4, 0xF7, 0xFA, 0xFB, 0xFC, 0xFF]

/-! ### The forms of the read, write and read-modify-write classes

A row gives the instruction, its operand, its bytes (`b` the one operand byte; `l` and `h` the low and the high byte of an
address), its base cycles, and whether a page crossing costs one more. -/

/-- A form of a read-class instruction. -/
structure ReadForm where
  instr : Instr
  operand : Operand
  bytes : List Byte
  cycles : Nat
  crossing : Bool

/-- A form of a write-class or read-modify-write instruction: no page crossing costs anything. -/
structure MemForm where
  instr : Instr
  operand : MemOperand
  bytes : List Byte
  cycles : Nat

/-- The forms of LDA, as rule R220 lists them. -/
def ldaForms (b l h : Byte) : List ReadForm := [
  ⟨.ldaImm b, .imm b, [0xA9, b], 2, false⟩,
  ⟨.ldaZp b, .mem (.zp b), [0xA5, b], 3, false⟩,
  ⟨.ldaZpX b, .mem (.zpX b), [0xB5, b], 4, false⟩,
  ⟨.ldaAbs (hiLo h l), .mem (.abs (hiLo h l)), [0xAD, l, h], 4, false⟩,
  ⟨.ldaAbsX (hiLo h l), .mem (.absX (hiLo h l)), [0xBD, l, h], 4, true⟩,
  ⟨.ldaAbsY (hiLo h l), .mem (.absY (hiLo h l)), [0xB9, l, h], 4, true⟩,
  ⟨.ldaIndX b, .mem (.indX b), [0xA1, b], 6, false⟩,
  ⟨.ldaIndY b, .mem (.indY b), [0xB1, b], 5, true⟩]

/-- The forms of LDX, as rule R221 lists them. -/
def ldxForms (b l h : Byte) : List ReadForm := [
  ⟨.ldxImm b, .imm b, [0xA2, b], 2, false⟩,
  ⟨.ldxZp b, .mem (.zp b), [0xA6, b], 3, false⟩,
  ⟨.ldxZpY b, .mem (.zpY b), [0xB6, b], 4, false⟩,
  ⟨.ldxAbs (hiLo h l), .mem (.abs (hiLo h l)), [0xAE, l, h], 4, false⟩,
  ⟨.ldxAbsY (hiLo h l), .mem (.absY (hiLo h l)), [0xBE, l, h], 4, true⟩]

/-- The forms of LDY, as rule R222 lists them. -/
def ldyForms (b l h : Byte) : List ReadForm := [
  ⟨.ldyImm b, .imm b, [0xA0, b], 2, false⟩,
  ⟨.ldyZp b, .mem (.zp b), [0xA4, b], 3, false⟩,
  ⟨.ldyZpX b, .mem (.zpX b), [0xB4, b], 4, false⟩,
  ⟨.ldyAbs (hiLo h l), .mem (.abs (hiLo h l)), [0xAC, l, h], 4, false⟩,
  ⟨.ldyAbsX (hiLo h l), .mem (.absX (hiLo h l)), [0xBC, l, h], 4, true⟩]

/-- The forms of ADC, as rule R240 lists them. -/
def adcForms (b l h : Byte) : List ReadForm := [
  ⟨.adcImm b, .imm b, [0x69, b], 2, false⟩,
  ⟨.adcZp b, .mem (.zp b), [0x65, b], 3, false⟩,
  ⟨.adcZpX b, .mem (.zpX b), [0x75, b], 4, false⟩,
  ⟨.adcAbs (hiLo h l), .mem (.abs (hiLo h l)), [0x6D, l, h], 4, false⟩,
  ⟨.adcAbsX (hiLo h l), .mem (.absX (hiLo h l)), [0x7D, l, h], 4, true⟩,
  ⟨.adcAbsY (hiLo h l), .mem (.absY (hiLo h l)), [0x79, l, h], 4, true⟩,
  ⟨.adcIndX b, .mem (.indX b), [0x61, b], 6, false⟩,
  ⟨.adcIndY b, .mem (.indY b), [0x71, b], 5, true⟩]

/-- The forms of SBC, as rule R241 lists them. -/
def sbcForms (b l h : Byte) : List ReadForm := [
  ⟨.sbcImm b, .imm b, [0xE9, b], 2, false⟩,
  ⟨.sbcZp b, .mem (.zp b), [0xE5, b], 3, false⟩,
  ⟨.sbcZpX b, .mem (.zpX b), [0xF5, b], 4, false⟩,
  ⟨.sbcAbs (hiLo h l), .mem (.abs (hiLo h l)), [0xED, l, h], 4, false⟩,
  ⟨.sbcAbsX (hiLo h l), .mem (.absX (hiLo h l)), [0xFD, l, h], 4, true⟩,
  ⟨.sbcAbsY (hiLo h l), .mem (.absY (hiLo h l)), [0xF9, l, h], 4, true⟩,
  ⟨.sbcIndX b, .mem (.indX b), [0xE1, b], 6, false⟩,
  ⟨.sbcIndY b, .mem (.indY b), [0xF1, b], 5, true⟩]

/-- The forms of AND, as rule R242 lists them. -/
def andForms (b l h : Byte) : List ReadForm := [
  ⟨.andImm b, .imm b, [0x29, b], 2, false⟩,
  ⟨.andZp b, .mem (.zp b), [0x25, b], 3, false⟩,
  ⟨.andZpX b, .mem (.zpX b), [0x35, b], 4, false⟩,
  ⟨.andAbs (hiLo h l), .mem (.abs (hiLo h l)), [0x2D, l, h], 4, false⟩,
  ⟨.andAbsX (hiLo h l), .mem (.absX (hiLo h l)), [0x3D, l, h], 4, true⟩,
  ⟨.andAbsY (hiLo h l), .mem (.absY (hiLo h l)), [0x39, l, h], 4, true⟩,
  ⟨.andIndX b, .mem (.indX b), [0x21, b], 6, false⟩,
  ⟨.andIndY b, .mem (.indY b), [0x31, b], 5, true⟩]

/-- The forms of ORA, as rule R243 lists them. -/
def oraForms (b l h : Byte) : List ReadForm := [
  ⟨.oraImm b, .imm b, [0x09, b], 2, false⟩,
  ⟨.oraZp b, .mem (.zp b), [0x05, b], 3, false⟩,
  ⟨.oraZpX b, .mem (.zpX b), [0x15, b], 4, false⟩,
  ⟨.oraAbs (hiLo h l), .mem (.abs (hiLo h l)), [0x0D, l, h], 4, false⟩,
  ⟨.oraAbsX (hiLo h l), .mem (.absX (hiLo h l)), [0x1D, l, h], 4, true⟩,
  ⟨.oraAbsY (hiLo h l), .mem (.absY (hiLo h l)), [0x19, l, h], 4, true⟩,
  ⟨.oraIndX b, .mem (.indX b), [0x01, b], 6, false⟩,
  ⟨.oraIndY b, .mem (.indY b), [0x11, b], 5, true⟩]

/-- The forms of EOR, as rule R244 lists them. -/
def eorForms (b l h : Byte) : List ReadForm := [
  ⟨.eorImm b, .imm b, [0x49, b], 2, false⟩,
  ⟨.eorZp b, .mem (.zp b), [0x45, b], 3, false⟩,
  ⟨.eorZpX b, .mem (.zpX b), [0x55, b], 4, false⟩,
  ⟨.eorAbs (hiLo h l), .mem (.abs (hiLo h l)), [0x4D, l, h], 4, false⟩,
  ⟨.eorAbsX (hiLo h l), .mem (.absX (hiLo h l)), [0x5D, l, h], 4, true⟩,
  ⟨.eorAbsY (hiLo h l), .mem (.absY (hiLo h l)), [0x59, l, h], 4, true⟩,
  ⟨.eorIndX b, .mem (.indX b), [0x41, b], 6, false⟩,
  ⟨.eorIndY b, .mem (.indY b), [0x51, b], 5, true⟩]

/-- The forms of CMP, as rule R245 lists them. -/
def cmpForms (b l h : Byte) : List ReadForm := [
  ⟨.cmpImm b, .imm b, [0xC9, b], 2, false⟩,
  ⟨.cmpZp b, .mem (.zp b), [0xC5, b], 3, false⟩,
  ⟨.cmpZpX b, .mem (.zpX b), [0xD5, b], 4, false⟩,
  ⟨.cmpAbs (hiLo h l), .mem (.abs (hiLo h l)), [0xCD, l, h], 4, false⟩,
  ⟨.cmpAbsX (hiLo h l), .mem (.absX (hiLo h l)), [0xDD, l, h], 4, true⟩,
  ⟨.cmpAbsY (hiLo h l), .mem (.absY (hiLo h l)), [0xD9, l, h], 4, true⟩,
  ⟨.cmpIndX b, .mem (.indX b), [0xC1, b], 6, false⟩,
  ⟨.cmpIndY b, .mem (.indY b), [0xD1, b], 5, true⟩]

/-- The forms of CPX, as rule R246 lists them. -/
def cpxForms (b l h : Byte) : List ReadForm := [
  ⟨.cpxImm b, .imm b, [0xE0, b], 2, false⟩,
  ⟨.cpxZp b, .mem (.zp b), [0xE4, b], 3, false⟩,
  ⟨.cpxAbs (hiLo h l), .mem (.abs (hiLo h l)), [0xEC, l, h], 4, false⟩]

/-- The forms of CPY, as rule R247 lists them. -/
def cpyForms (b l h : Byte) : List ReadForm := [
  ⟨.cpyImm b, .imm b, [0xC0, b], 2, false⟩,
  ⟨.cpyZp b, .mem (.zp b), [0xC4, b], 3, false⟩,
  ⟨.cpyAbs (hiLo h l), .mem (.abs (hiLo h l)), [0xCC, l, h], 4, false⟩]

/-- The forms of BIT, as rule R248 lists them. -/
def bitForms (b l h : Byte) : List ReadForm := [
  ⟨.bitZp b, .mem (.zp b), [0x24, b], 3, false⟩,
  ⟨.bitAbs (hiLo h l), .mem (.abs (hiLo h l)), [0x2C, l, h], 4, false⟩]

/-- The forms of STA, as rule R223 lists them. -/
def staForms (b l h : Byte) : List MemForm := [
  ⟨.staZp b, .zp b, [0x85, b], 3⟩,
  ⟨.staZpX b, .zpX b, [0x95, b], 4⟩,
  ⟨.staAbs (hiLo h l), .abs (hiLo h l), [0x8D, l, h], 4⟩,
  ⟨.staAbsX (hiLo h l), .absX (hiLo h l), [0x9D, l, h], 5⟩,
  ⟨.staAbsY (hiLo h l), .absY (hiLo h l), [0x99, l, h], 5⟩,
  ⟨.staIndX b, .indX b, [0x81, b], 6⟩,
  ⟨.staIndY b, .indY b, [0x91, b], 6⟩]

/-- The forms of STX, as rule R224 lists them. -/
def stxForms (b l h : Byte) : List MemForm := [
  ⟨.stxZp b, .zp b, [0x86, b], 3⟩,
  ⟨.stxZpY b, .zpY b, [0x96, b], 4⟩,
  ⟨.stxAbs (hiLo h l), .abs (hiLo h l), [0x8E, l, h], 4⟩]

/-- The forms of STY, as rule R225 lists them. -/
def styForms (b l h : Byte) : List MemForm := [
  ⟨.styZp b, .zp b, [0x84, b], 3⟩,
  ⟨.styZpX b, .zpX b, [0x94, b], 4⟩,
  ⟨.styAbs (hiLo h l), .abs (hiLo h l), [0x8C, l, h], 4⟩]

/-- The memory forms of INC, as rule R249 lists them. -/
def incForms (b l h : Byte) : List MemForm := [
  ⟨.incZp b, .zp b, [0xE6, b], 5⟩,
  ⟨.incZpX b, .zpX b, [0xF6, b], 6⟩,
  ⟨.incAbs (hiLo h l), .abs (hiLo h l), [0xEE, l, h], 6⟩,
  ⟨.incAbsX (hiLo h l), .absX (hiLo h l), [0xFE, l, h], 7⟩]

/-- The memory forms of DEC, as rule R250 lists them. -/
def decForms (b l h : Byte) : List MemForm := [
  ⟨.decZp b, .zp b, [0xC6, b], 5⟩,
  ⟨.decZpX b, .zpX b, [0xD6, b], 6⟩,
  ⟨.decAbs (hiLo h l), .abs (hiLo h l), [0xCE, l, h], 6⟩,
  ⟨.decAbsX (hiLo h l), .absX (hiLo h l), [0xDE, l, h], 7⟩]

/-- The memory forms of ASL, as rule R270 lists them. -/
def aslForms (b l h : Byte) : List MemForm := [
  ⟨.aslZp b, .zp b, [0x06, b], 5⟩,
  ⟨.aslZpX b, .zpX b, [0x16, b], 6⟩,
  ⟨.aslAbs (hiLo h l), .abs (hiLo h l), [0x0E, l, h], 6⟩,
  ⟨.aslAbsX (hiLo h l), .absX (hiLo h l), [0x1E, l, h], 7⟩]

/-- The memory forms of LSR, as rule R271 lists them. -/
def lsrForms (b l h : Byte) : List MemForm := [
  ⟨.lsrZp b, .zp b, [0x46, b], 5⟩,
  ⟨.lsrZpX b, .zpX b, [0x56, b], 6⟩,
  ⟨.lsrAbs (hiLo h l), .abs (hiLo h l), [0x4E, l, h], 6⟩,
  ⟨.lsrAbsX (hiLo h l), .absX (hiLo h l), [0x5E, l, h], 7⟩]

/-- The memory forms of ROL, as rule R272 lists them. -/
def rolForms (b l h : Byte) : List MemForm := [
  ⟨.rolZp b, .zp b, [0x26, b], 5⟩,
  ⟨.rolZpX b, .zpX b, [0x36, b], 6⟩,
  ⟨.rolAbs (hiLo h l), .abs (hiLo h l), [0x2E, l, h], 6⟩,
  ⟨.rolAbsX (hiLo h l), .absX (hiLo h l), [0x3E, l, h], 7⟩]

/-- The memory forms of ROR, as rule R273 lists them. -/
def rorForms (b l h : Byte) : List MemForm := [
  ⟨.rorZp b, .zp b, [0x66, b], 5⟩,
  ⟨.rorZpX b, .zpX b, [0x76, b], 6⟩,
  ⟨.rorAbs (hiLo h l), .abs (hiLo h l), [0x6E, l, h], 6⟩,
  ⟨.rorAbsX (hiLo h l), .absX (hiLo h l), [0x7E, l, h], 7⟩]

/-- The operand of a read-class form can be read: it is immediate, or its address is in a region. -/
def mapped (o : Operand) (s : State) : Bool :=
  match o with
  | .imm _ => true
  | .mem m => !unmapped (m.ea s)

/-- `M` and the machine after its one read: the immediate byte, or what the bus gives at `ea` (R194, R205). -/
def operandRead (o : Operand) (s : State) : Byte × State :=
  match o with
  | .imm b => (b, s)
  | .mem m => busRead (m.ea s) s

/-- The page was crossed (R199, R200, R202). -/
def pageCrossed (o : Operand) (s : State) : Bool :=
  match o with
  | .imm _ => false
  | .mem m => m.crossed s

/-- What one form of a read-class instruction does: its encoding; if its operand can be read, it completes with `effect`
(the state before, `M`, the state after the read with PC past the instruction and the cycles counted); if not, it faults at
the operand's address. -/
def ReadForm.Does (f : ReadForm) (effect : State → Byte → State → State) (s : State) : Prop :=
  Encodes f.instr f.bytes ∧
  (mapped f.operand s = true →
    exec f.instr s = .next (effect s (operandRead f.operand s).1
      { (operandRead f.operand s).2 with
        pc := s.pc + BitVec.ofNat 16 f.bytes.length
        extraCycles := 0
        cycles := f.cycles + if f.crossing && pageCrossed f.operand s then 1 else 0 })) ∧
  (∀ m, f.operand = .mem m → unmapped (m.ea s) = true → exec f.instr s = .fault (.unmappedAddress (m.ea s)))

/-- Every form in a table of the read class has the effect, in every state. -/
def ReadRule (forms : Byte → Byte → Byte → List ReadForm) (effect : State → Byte → State → State) : Prop :=
  ∀ b l h s, ∀ f ∈ forms b l h, f.Does effect s

/-- What one form of a write-class instruction does with the value `v`: its encoding; one bus write of `v` at `ea`, with PC
past the instruction and the cycles counted, DMA's included; if that write faults, the fault at its address (of a DMA from
page 0x40, at 0x4018). -/
def MemForm.Stores (f : MemForm) (v : Byte) (s : State) : Prop :=
  Encodes f.instr f.bytes ∧
  (storeFaults (f.operand.ea s) v = false →
    ∃ t, write (f.operand.ea s) v { s with extraCycles := 0 } = .ok t ∧
      exec f.instr s = .next { t with
        pc := s.pc + BitVec.ofNat 16 f.bytes.length, cycles := f.cycles + t.extraCycles }) ∧
  (storeFaults (f.operand.ea s) v = true →
    exec f.instr s = .fault
      (.unmappedAddress (if unmapped (f.operand.ea s) then f.operand.ea s else 0x4018)))

/-- What one memory form of a read-modify-write instruction does, `op` giving the result and the flags from the old flags
and `M`: its encoding; one read at `ea`, then one write of the result there; the faults of both accesses: an unmapped `ea`, and
at the DMA register, whose read is a free byte, a result of 0x40. -/
def MemForm.Modifies (f : MemForm) (op : Flags → Byte → Byte × Flags) (s : State) : Prop :=
  let ea := f.operand.ea s
  let r := op s.p (busRead ea s).1
  Encodes f.instr f.bytes ∧
  (unmapped ea = false → storeFaults ea r.1 = false →
    ∃ t, write ea r.1 { (busRead ea s).2 with extraCycles := 0 } = .ok t ∧
      exec f.instr s = .next { t with
        p := r.2, pc := s.pc + BitVec.ofNat 16 f.bytes.length, cycles := f.cycles + t.extraCycles }) ∧
  (unmapped ea = true → exec f.instr s = .fault (.unmappedAddress ea)) ∧
  (ea = 0x4014#16 →
    if r.1 = 0x40#8 then exec f.instr s = .fault (.unmappedAddress 0x4018) else ∃ t, exec f.instr s = .next t)

/-- What the accumulator form does: encoding, result and flags, two cycles; nothing else changes. -/
def ModifiesA (i : Instr) (opcode : Byte) (op : Flags → Byte → Byte × Flags) (s : State) : Prop :=
  Encodes i [opcode] ∧
  exec i s = .next { s with
    a := (op s.p s.a).1, p := (op s.p s.a).2, pc := s.pc + 1, extraCycles := 0, cycles := 2 }

/-- What a one-byte instruction without operand does: its encoding, `effect`, PC past it and its cycles. -/
def Implied (i : Instr) (opcode : Byte) (cycles : Nat) (effect : State → State) : Prop :=
  Encodes i [opcode] ∧
  ∀ s, exec i s = .next { effect s with pc := s.pc + 1, extraCycles := 0, cycles := cycles }

/-- `setNZ(r)` on the flags (R207). -/
def nz (p : Flags) (r : Byte) : Flags := { p with z := decide (r = 0), n := r.getLsbD 7 }

/-- The flags of a comparison of `r` with `m` (R245). -/
def compared (p : Flags) (r m : Byte) : Flags :=
  { p with c := decide (m.toNat ≤ r.toNat), z := decide (r = m), n := (r - m).getLsbD 7 }

/-- The result of ADC and its flags, on unbounded numbers (R240); SBC is that of the complement (R241). -/
def added (p : Flags) (a m : Byte) : Byte × Flags :=
  let sum := a.toNat + m.toNat + (if p.c then 1 else 0)
  let r : Byte := BitVec.ofNat 8 (sum % 256)
  (r, { p with
    c := decide (sum > 255)
    v := decide ((a ^^^ r) &&& (m ^^^ r) &&& 0x80#8 ≠ 0)
    z := decide (r = 0)
    n := r.getLsbD 7 })

/-- A shift's result and flags: `out` goes to C (R270 to R273). -/
def shiftedTo (p : Flags) (out : Bool) (r : Byte) : Byte × Flags := (r, nz { p with c := out } r)

/-! ### Branches -/

/-- A conditional branch: the instruction of an offset, its opcode, its condition. -/
structure BranchForm where
  instr : Byte → Instr
  opcode : Byte
  cond : Flags → Bool

/-- The eight branches (R281 to R288). -/
def branchForms : List BranchForm := [
  ⟨.bcc, 0x90, fun p => !p.c⟩,
  ⟨.bcs, 0xB0, fun p => p.c⟩,
  ⟨.beq, 0xF0, fun p => p.z⟩,
  ⟨.bmi, 0x30, fun p => p.n⟩,
  ⟨.bne, 0xD0, fun p => !p.z⟩,
  ⟨.bpl, 0x10, fun p => !p.n⟩,
  ⟨.bvc, 0x50, fun p => !p.v⟩,
  ⟨.bvs, 0x70, fun p => p.v⟩]

/-- `next = u16(pc0 + 2)` (R204). -/
def branchNext (s : State) : Nat := (s.pc.toNat + 2) % 65536

/-- `target = u16(next + s8(b1))` (R204), on the integers. -/
def branchTarget (s : State) (off : Byte) : Nat := (((branchNext s : Int) + off.toInt) % 65536).toNat

/-! ### The stack -/

/-- RAM with a byte stored in the stack place `sp` names, `0x0100 + sp` (R206). -/
def stackPut (ram : Memory Byte) (sp b : Byte) : Memory Byte := Memory.write 0 ram (0x100 + sp.toNat) b

/-- The byte in the stack place `sp` names. -/
def stackAt (s : State) (sp : Byte) : Byte := Memory.read 0 s.ram (0x100 + sp.toNat)

/-- RAM after an interrupt's three pushes: PC high byte, PC low byte, status (R344). -/
def interruptFrame (s : State) (pc : Addr) (bflag : Bool) : Memory Byte :=
  stackPut (stackPut (stackPut s.ram s.sp (hiByte pc)) (s.sp - 1) (loByte pc)) (s.sp - 2) (s.p.pack bflag)

/-- The word at a vector: the bytes of PRG at its address and the next (R145). -/
def vectorWord (s : State) (low high : Addr) : Addr := hiLo (s.prgAt high) (s.prgAt low)

/-! ### Frames -/

/-- What an instruction may change of the CPU's registers and flags. -/
structure Touches where
  a : Bool := false
  x : Bool := false
  y : Bool := false
  sp : Bool := false
  n : Bool := false
  v : Bool := false
  b : Bool := false
  d : Bool := false
  i : Bool := false
  z : Bool := false
  c : Bool := false

/-- Every register and flag not named is unchanged, and so is everything no instruction but BRK touches. -/
def Unchanged (k : Touches) (s t : State) : Prop :=
  (k.a = false → t.a = s.a) ∧ (k.x = false → t.x = s.x) ∧ (k.y = false → t.y = s.y) ∧ (k.sp = false → t.sp = s.sp) ∧
  (k.n = false → t.p.n = s.p.n) ∧ (k.v = false → t.p.v = s.p.v) ∧ (k.b = false → t.p.b = s.p.b) ∧
  (k.d = false → t.p.d = s.p.d) ∧ (k.i = false → t.p.i = s.p.i) ∧ (k.z = false → t.p.z = s.p.z) ∧
  (k.c = false → t.p.c = s.p.c) ∧
  t.nmiRequest = s.nmiRequest ∧ t.status = s.status ∧ t.cyclesTotal = s.cyclesTotal ∧ t.irqLine = s.irqLine ∧
  t.frames = s.frames ∧ t.cart = s.cart ∧ t.params = s.params

/-- Every byte of RAM and PRG reads as before. -/
def MemoryUnchanged (s t : State) : Prop := ∀ a, t.peek a = s.peek a

/-- The picture unit, the controller and the count of open-bus bytes are as before. -/
def DevicesUnchanged (s t : State) : Prop := t.ppu = s.ppu ∧ t.ctl = s.ctl ∧ t.draws = s.draws

/-- Two addresses that name one byte of RAM (R103). -/
def SameRamByte (a b : Addr) : Prop := a.toNat < 0x2000 ∧ b.toNat < 0x2000 ∧ a.toNat % 0x800 = b.toNat % 0x800

/-- A register-window address. -/
def inPpuWindow (a : Addr) : Prop := 0x2000 ≤ a.toNat ∧ a.toNat < 0x4000

/-- The instructions that write A (R31). -/
def writesA : Instr → Bool
  | .ldaImm _ | .ldaZp _ | .ldaZpX _ | .ldaAbs _ | .ldaAbsX _ | .ldaAbsY _ | .ldaIndX _ | .ldaIndY _ | .txa | .tya |
    .adcImm _ | .adcZp _ | .adcZpX _ | .adcAbs _ | .adcAbsX _ | .adcAbsY _ | .adcIndX _ | .adcIndY _ | .sbcImm _ |
    .sbcZp _ | .sbcZpX _ | .sbcAbs _ | .sbcAbsX _ | .sbcAbsY _ | .sbcIndX _ | .sbcIndY _ | .andImm _ | .andZp _ |
    .andZpX _ | .andAbs _ | .andAbsX _ | .andAbsY _ | .andIndX _ | .andIndY _ | .oraImm _ | .oraZp _ | .oraZpX _ |
    .oraAbs _ | .oraAbsX _ | .oraAbsY _ | .oraIndX _ | .oraIndY _ | .eorImm _ | .eorZp _ | .eorZpX _ | .eorAbs _ |
    .eorAbsX _ | .eorAbsY _ | .eorIndX _ | .eorIndY _ | .aslA | .lsrA | .rolA | .rorA | .pla => true
  | _ => false

/-- The instructions that write X (R32). -/
def writesX : Instr → Bool
  | .ldxImm _ | .ldxZp _ | .ldxZpY _ | .ldxAbs _ | .ldxAbsY _ | .tax | .tsx | .inx | .dex => true
  | _ => false

/-- The instructions that write Y (R33). -/
def writesY : Instr → Bool
  | .ldyImm _ | .ldyZp _ | .ldyZpX _ | .ldyAbs _ | .ldyAbsX _ | .tay | .iny | .dey => true
  | _ => false

/-- The instructions that write SP (R34). -/
def writesSp : Instr → Bool
  | .txs | .jsr _ | .rts | .brk | .rti | .pha | .php | .pla | .plp => true
  | _ => false

/-- The instructions that write C (R39). -/
def writesC : Instr → Bool
  | .adcImm _ | .adcZp _ | .adcZpX _ | .adcAbs _ | .adcAbsX _ | .adcAbsY _ | .adcIndX _ | .adcIndY _ | .sbcImm _ |
    .sbcZp _ | .sbcZpX _ | .sbcAbs _ | .sbcAbsX _ | .sbcAbsY _ | .sbcIndX _ | .sbcIndY _ | .cmpImm _ | .cmpZp _ |
    .cmpZpX _ | .cmpAbs _ | .cmpAbsX _ | .cmpAbsY _ | .cmpIndX _ | .cmpIndY _ | .cpxImm _ | .cpxZp _ | .cpxAbs _ |
    .cpyImm _ | .cpyZp _ | .cpyAbs _ | .aslA | .aslZp _ | .aslZpX _ | .aslAbs _ | .aslAbsX _ | .lsrA | .lsrZp _ |
    .lsrZpX _ | .lsrAbs _ | .lsrAbsX _ | .rolA | .rolZp _ | .rolZpX _ | .rolAbs _ | .rolAbsX _ | .rorA | .rorZp _ |
    .rorZpX _ | .rorAbs _ | .rorAbsX _ | .rti | .plp | .clc | .sec => true
  | _ => false

/-- The instructions that write N and Z (R39). -/
def writesNZ : Instr → Bool
  | .ldaImm _ | .ldaZp _ | .ldaZpX _ | .ldaAbs _ | .ldaAbsX _ | .ldaAbsY _ | .ldaIndX _ | .ldaIndY _ | .ldxImm _ |
    .ldxZp _ | .ldxZpY _ | .ldxAbs _ | .ldxAbsY _ | .ldyImm _ | .ldyZp _ | .ldyZpX _ | .ldyAbs _ | .ldyAbsX _ | .tax |
    .tay | .tsx | .txa | .tya | .adcImm _ | .adcZp _ | .adcZpX _ | .adcAbs _ | .adcAbsX _ | .adcAbsY _ | .adcIndX _ |
    .adcIndY _ | .sbcImm _ | .sbcZp _ | .sbcZpX _ | .sbcAbs _ | .sbcAbsX _ | .sbcAbsY _ | .sbcIndX _ | .sbcIndY _ |
    .andImm _ | .andZp _ | .andZpX _ | .andAbs _ | .andAbsX _ | .andAbsY _ | .andIndX _ | .andIndY _ | .oraImm _ |
    .oraZp _ | .oraZpX _ | .oraAbs _ | .oraAbsX _ | .oraAbsY _ | .oraIndX _ | .oraIndY _ | .eorImm _ | .eorZp _ |
    .eorZpX _ | .eorAbs _ | .eorAbsX _ | .eorAbsY _ | .eorIndX _ | .eorIndY _ | .cmpImm _ | .cmpZp _ | .cmpZpX _ |
    .cmpAbs _ | .cmpAbsX _ | .cmpAbsY _ | .cmpIndX _ | .cmpIndY _ | .cpxImm _ | .cpxZp _ | .cpxAbs _ | .cpyImm _ |
    .cpyZp _ | .cpyAbs _ | .bitZp _ | .bitAbs _ | .incZp _ | .incZpX _ | .incAbs _ | .incAbsX _ | .decZp _ |
    .decZpX _ | .decAbs _ | .decAbsX _ | .inx | .iny | .dex | .dey | .aslA | .aslZp _ | .aslZpX _ | .aslAbs _ |
    .aslAbsX _ | .lsrA | .lsrZp _ | .lsrZpX _ | .lsrAbs _ | .lsrAbsX _ | .rolA | .rolZp _ | .rolZpX _ | .rolAbs _ |
    .rolAbsX _ | .rorA | .rorZp _ | .rorZpX _ | .rorAbs _ | .rorAbsX _ | .rti | .pla | .plp => true
  | _ => false

/-- The instructions that write V (R39). -/
def writesV : Instr → Bool
  | .adcImm _ | .adcZp _ | .adcZpX _ | .adcAbs _ | .adcAbsX _ | .adcAbsY _ | .adcIndX _ | .adcIndY _ | .sbcImm _ |
    .sbcZp _ | .sbcZpX _ | .sbcAbs _ | .sbcAbsX _ | .sbcAbsY _ | .sbcIndX _ | .sbcIndY _ | .bitZp _ | .bitAbs _ |
    .rti | .plp | .clv => true
  | _ => false

/-- The instructions that write I (R39). -/
def writesI : Instr → Bool
  | .brk | .rti | .plp | .cli | .sei => true
  | _ => false

/-- The instructions that write D (R39). -/
def writesD : Instr → Bool
  | .rti | .plp | .cld | .sed => true
  | _ => false

/-- The instructions that write B (R39). -/
def writesB : Instr → Bool
  | .rti | .plp => true
  | _ => false

/-- The instructions that store to memory (R205, R206, R292). -/
def storesMemory : Instr → Bool
  | .staZp _ | .staZpX _ | .staAbs _ | .staAbsX _ | .staAbsY _ | .staIndX _ | .staIndY _ | .stxZp _ | .stxZpY _ |
    .stxAbs _ | .styZp _ | .styZpX _ | .styAbs _ | .incZp _ | .incZpX _ | .incAbs _ | .incAbsX _ | .decZp _ |
    .decZpX _ | .decAbs _ | .decAbsX _ | .aslZp _ | .aslZpX _ | .aslAbs _ | .aslAbsX _ | .lsrZp _ | .lsrZpX _ |
    .lsrAbs _ | .lsrAbsX _ | .rolZp _ | .rolZpX _ | .rolAbs _ | .rolAbsX _ | .rorZp _ | .rorZpX _ | .rorAbs _ |
    .rorAbsX _ | .jsr _ | .brk | .pha | .php => true
  | _ => false

/-! ### Outcomes -/

/-- The outcome with its next state changed by `f`. -/
def mapNext (f : State → State) (o : Host.Outcome State Fault Refusal) : Host.Outcome State Fault Refusal :=
  match o with
  | .next t => .next (f t)
  | .fault r => .fault r
  | .refused r => .refused r

/-- Two outcomes that differ in the stored flag B at most. -/
def SameButB (o q : Host.Outcome State Fault Refusal) : Prop :=
  match o, q with
  | .next t, .next u => u = { t with p := { t.p with b := u.p.b } }
  | .fault r, .fault r' => r = r'
  | .refused r, .refused r' => r = r'
  | _, _ => False

/-- A running machine at whose boundary no interrupt is taken (R330). -/
def runsInstruction (s : State) : Prop :=
  s.status = .running ∧ s.nmiRequest = false ∧ (s.irqLine = false ∨ s.p.i = true)

/-- The bytes stand in plain memory from PC on. -/
def bytesAtPc (s : State) (bytes : List Byte) : Prop :=
  ∀ k b, bytes[k]? = some b → s.peek (s.pc + BitVec.ofNat 16 k) = some b

/-- Bytes read one after the other from an address on. -/
def readBytes : Nat → Addr → State → Except Fault (List Byte × State)
  | 0, _, s => .ok ([], s)
  | n + 1, a, s =>
    match read a s with
    | .error r => .error r
    | .ok (b, s1) =>
      match readBytes n (a + 1) s1 with
      | .error r => .error r
      | .ok (l, s2) => .ok (b :: l, s2)

/-! ### OAM DMA -/

/-- The machine after the first `n` copies of OAM DMA from page `d`, in increasing order: byte `i` is read through the bus,
with the read's side effects, and stored in OAM at `oam_addr + i`, wrapping (R113). -/
def afterCopies (d : Byte) : Nat → State → State
  | 0, s => s
  | i + 1, s =>
    let r := busRead (hiLo d (BitVec.ofNat 8 i)) (afterCopies d i s)
    { r.2 with ppu := { r.2.ppu with
      oam := Memory.write 0 r.2.ppu.oam (r.2.ppu.oamAddr + BitVec.ofNat 8 i).toNat r.1 } }

/-! ### The controller and the picture unit -/

/-- The controller after `k` reads. -/
def afterReads : Nat → Controller → Controller
  | 0, c => c
  | k + 1, c => afterReads k c.afterRead

/-- The odd-frame skip applies to the frame the unit is in (R361, R362). -/
def skipApplies (skip : Bool) (u : Ppu) : Bool := skip && u.oddFrame && renderingEnabled u

/-- The ticks of a frame from (0, 0) (R362). -/
def frameTicks (skip : Bool) (u : Ppu) : Nat := if skipApplies skip u then 89341 else 89342

end Sys2Proof.Claims

open Sys2Proof Sys2Proof.Machine Sys2Proof.Claims

/-! ### Encoding -/

/-- Decoding an instruction's encoding, whatever bytes follow, gives the instruction and those bytes
(30_encoding.md R160 to R163). -/
def Obligations.DecodeOfEncodeIsIdentity : Prop :=
  ∀ (i : Instr) (rest : List Byte), decode (encode i ++ rest) = .ok (i, rest)

/-- What decodes is the encoding of the instruction it decodes to: no other byte sequence gives it
(30_encoding.md R160, R162). -/
def Obligations.EncodeOfDecodeIsIdentity : Prop :=
  ∀ (bytes rest : List Byte) (i : Instr), decode bytes = .ok (i, rest) →
    bytes = encode i ++ rest ∧ 1 ≤ (encode i).length ∧ (encode i).length ≤ 3

/-- The 105 bytes of rule R170 and only they begin no instruction; fetching one of them as an opcode, through whatever the
bus gives at PC, faults with the address of the opcode byte, and the run goes no further (R170, R322). -/
def Obligations.UndefinedOpcodesFault : Prop :=
  (∀ (op : Byte) (rest : List Byte), decode (op :: rest) = .error (.undefinedOpcode op) ↔ op ∈ undefinedBytes) ∧
  (∀ (s s' : State) (op : Byte), runsInstruction s → read s.pc s = .ok (op, s') → op ∈ undefinedBytes →
    step s = .fault (.decodeError s.pc))

/-- Words written out from the spec's encodings decode to the instructions they stand for (R161, R163, R174). -/
def Obligations.SpecWordsDecode : Prop :=
  decode [0xA9, 0x05, 0x85, 0x00, 0x00] = .ok (.ldaImm 0x05, [0x85, 0x00, 0x00]) ∧
  decode [0x85, 0x00, 0x00] = .ok (.staZp 0x00, [0x00]) ∧
  decode [0x00] = .ok (.brk, []) ∧
  decode [0xAD, 0x34, 0x12] = .ok (.ldaAbs 0x1234, []) ∧
  decode [0x71, 0x10] = .ok (.adcIndY 0x10, []) ∧
  decode [0x7E, 0x00, 0x02] = .ok (.rorAbsX 0x0200, []) ∧
  decode [0x6C, 0xFF, 0x02] = .ok (.jmpInd 0x02FF, []) ∧
  decode [0xD0, 0xFE] = .ok (.bne 0xFE, []) ∧
  decode [0x28] = .ok (.plp, [])

/-! ### The step -/

/-- When the bytes at PC are the encoding of an instruction, in plain memory, and no interrupt is taken, the step is that
instruction's `exec` at that state, followed by the driver's part `afterCpu` if it answers a next state (R190, R410). -/
def Obligations.StepRunsDecodedInstruction : Prop :=
  ∀ (s : State) (i : Instr), runsInstruction s → bytesAtPc s (encode i) →
    step s =
      match exec i s with
      | .next t => .next (afterCpu t)
      | .fault r => .fault r
      | .refused r => .refused r

/-- Fetching is reading, byte by byte from PC on, with each read's side effects and faults: the bytes read are the
instruction's, and the machine that `exec` starts from is the one the reads leave. So from 0x4018 to 0x401F the opcode's fetch
faults; at 0x4017, where the opcode is a free byte, the step decodes that byte and, if it has operands, faults at 0x4018 for
them; reading from a mirror of PPUSTATUS on clears vblank; and from empty cartridge space the opcode is a free byte (R154). -/
def Obligations.FetchGoesThroughTheBus : Prop :=
  (∀ (s t : State) (i : Instr), runsInstruction s → readBytes (encode i).length s.pc s = .ok (encode i, t) →
    step s =
      match exec i t with
      | .next u => .next (afterCpu u)
      | .fault r => .fault r
      | .refused r => .refused r) ∧
  (∀ (s : State) (r : Fault), runsInstruction s → read s.pc s = .error r → step s = .fault r) ∧
  (∀ (s : State), unmapped s.pc = true → read s.pc s = .error (.unmappedAddress s.pc)) ∧
  (∀ (s : State), runsInstruction s → s.pc = 0x4017 →
    (Config.draw s.draws ∈ undefinedBytes ∧ step s = .fault (.decodeError 0x4017)) ∨
    (∃ i t, encode i = [Config.draw s.draws] ∧ step s = .next t) ∨
    (Config.draw s.draws ∉ undefinedBytes ∧ (∀ i, encode i ≠ [Config.draw s.draws]) ∧
      step s = .fault (.unmappedAddress 0x4018))) ∧
  (∀ (s t : State) (n : Nat) (bytes : List Byte), inPpuWindow s.pc → s.pc.toNat % 8 = 2 →
    readBytes (n + 1) s.pc s = .ok (bytes, t) → t.ppu.vblank = false) ∧
  (∀ (s : State), 0x4020 ≤ s.pc.toNat → s.pc.toNat < 0x8000 →
    read s.pc s = .ok (Config.draw s.draws, { s with draws := s.draws + 1 }))

/-- A running machine stops for two reasons only: an undefined opcode at PC, or an access to an address in 0x4018 to 0x401F
(R324); and nothing is refused, for every one of the 151 opcodes has its meaning. -/
def Obligations.OnlyNamedFaultsOccur : Prop :=
  (∀ (s : State) (r : Fault), s.status = .running → step s = .fault r →
    r = .decodeError s.pc ∨ ∃ a : Addr, 0x4018 ≤ a.toNat ∧ a.toNat ≤ 0x401F ∧ r = .unmappedAddress a) ∧
  (∀ (i : Instr) (s : State) (r : Refusal), exec i s ≠ .refused r) ∧
  (∀ (s : State) (r : Refusal), step s ≠ .refused r)

/-- A fault leaves everything as it was before the step but the status, and the faulted machine has no further step
(R325). That `step` of a faulted machine answers its fault again, and that a driver step leaves it as it is, is the model's
reading of 'no next step' (DEDUCED, log 7). The count of drawn bytes is the model's own and no state of the spec's (R84,
log 1): of it StepLeavesHostInputs speaks. -/
def Obligations.FaultRestoresTheState : Prop :=
  ∀ (s : State) (r : Fault), s.status = .running → step s = .fault r →
    driverStep s = { s with status := .faulted r, draws := (driverStep s).draws } ∧ step (driverStep s) = .fault r ∧
      driverStep (driverStep s) = driverStep s

/-! ### Loads, stores, transfers -/

/-- LDA, LDX and LDY, in every form (R220, R221, R222). -/
def Obligations.LoadsSetRegisterAndNZ : Prop :=
  ReadRule ldaForms (fun s m t => { t with a := m, p := nz s.p m }) ∧
  ReadRule ldxForms (fun s m t => { t with x := m, p := nz s.p m }) ∧
  ReadRule ldyForms (fun s m t => { t with y := m, p := nz s.p m })

/-- STA, STX and STY, in every form (R223, R224, R225). -/
def Obligations.StoresWriteTheRegister : Prop :=
  (∀ b l h s, ∀ f ∈ staForms b l h, f.Stores s.a s) ∧
  (∀ b l h s, ∀ f ∈ stxForms b l h, f.Stores s.x s) ∧
  (∀ b l h s, ∀ f ∈ styForms b l h, f.Stores s.y s)

/-- The six transfers (R226 to R231). -/
def Obligations.TransfersCopyRegisters : Prop :=
  Implied .tax 0xAA 2 (fun s => { s with x := s.a, p := nz s.p s.a }) ∧
  Implied .tay 0xA8 2 (fun s => { s with y := s.a, p := nz s.p s.a }) ∧
  Implied .tsx 0xBA 2 (fun s => { s with x := s.sp, p := nz s.p s.sp }) ∧
  Implied .txa 0x8A 2 (fun s => { s with a := s.x, p := nz s.p s.x }) ∧
  Implied .txs 0x9A 2 (fun s => { s with sp := s.x }) ∧
  Implied .tya 0x98 2 (fun s => { s with a := s.y, p := nz s.p s.y })

/-- The effective address of every memory operand, on numbers, with the page-crossing flag, the pointer reads and the length
(R195 to R202). -/
def Obligations.EffectiveAddresses : Prop :=
  ∀ (s : State) (b : Byte) (a : Addr),
    ((MemOperand.zp b).ea s).toNat = b.toNat ∧
    ((MemOperand.zpX b).ea s).toNat = (b.toNat + s.x.toNat) % 256 ∧
    ((MemOperand.zpY b).ea s).toNat = (b.toNat + s.y.toNat) % 256 ∧
    (MemOperand.abs a).ea s = a ∧
    ((MemOperand.absX a).ea s).toNat = (a.toNat + s.x.toNat) % 65536 ∧
    (MemOperand.absX a).crossed s = decide (a.toNat / 256 ≠ (a.toNat + s.x.toNat) % 65536 / 256) ∧
    ((MemOperand.absY a).ea s).toNat = (a.toNat + s.y.toNat) % 65536 ∧
    (MemOperand.absY a).crossed s = decide (a.toNat / 256 ≠ (a.toNat + s.y.toNat) % 65536 / 256) ∧
    (∃ lo hi : Byte,
      read (BitVec.ofNat 16 ((b.toNat + s.x.toNat) % 256)) s = .ok (lo, s) ∧
      read (BitVec.ofNat 16 ((b.toNat + s.x.toNat + 1) % 256)) s = .ok (hi, s) ∧
      ((MemOperand.indX b).ea s).toNat = hi.toNat * 256 + lo.toNat) ∧
    (∃ lo hi : Byte,
      read (BitVec.ofNat 16 b.toNat) s = .ok (lo, s) ∧
      read (BitVec.ofNat 16 ((b.toNat + 1) % 256)) s = .ok (hi, s) ∧
      ((MemOperand.indY b).ea s).toNat = (hi.toNat * 256 + lo.toNat + s.y.toNat) % 65536 ∧
      (MemOperand.indY b).crossed s =
        decide (hi.toNat ≠ (hi.toNat * 256 + lo.toNat + s.y.toNat) % 65536 / 256)) ∧
    (∀ m ∈ [MemOperand.zp b, .zpX b, .zpY b, .abs a, .indX b], m.crossed s = false) ∧
    (∀ m ∈ [MemOperand.zp b, .zpX b, .zpY b, .indX b, .indY b], m.length = 2) ∧
    (∀ m ∈ [MemOperand.abs a, .absX a, .absY a], m.length = 3) ∧
    (∀ row ∈ opTable, row.mode = .zeroPageY → row.opcode = 0xB6 ∨ row.opcode = 0x96)

/-! ### Arithmetic and logic -/

/-- ADC, in every form (R240). -/
def Obligations.AdcAddsWithCarry : Prop :=
  ReadRule adcForms (fun s m t => { t with a := (added s.p s.a m).1, p := (added s.p s.a m).2 })

/-- SBC, in every form: ADC of the complemented operand (R241). -/
def Obligations.SbcAddsTheComplement : Prop :=
  ReadRule sbcForms (fun s m t =>
    { t with a := (added s.p s.a (m ^^^ 0xFF)).1, p := (added s.p s.a (m ^^^ 0xFF)).2 })

/-- What ADC and SBC compute, as numbers: C is the carry out, or no borrow, of the unsigned operation, V its signed
two's-complement overflow, and A the result mod 256 (R255, R257; the notes of R241). -/
def Obligations.CarryAndOverflowMeaning : Prop :=
  ∀ (b l h : Byte) (s t : State),
    (∀ f ∈ adcForms b l h, exec f.instr s = .next t →
      let m := (operandRead f.operand s).1
      let c : Nat := if s.p.c then 1 else 0
      t.a.toNat = (s.a.toNat + m.toNat + c) % 256 ∧
      t.p.c = decide (256 ≤ s.a.toNat + m.toNat + c) ∧
      t.p.v = decide (s.a.toInt + m.toInt + c < -128 ∨ 127 < s.a.toInt + m.toInt + c)) ∧
    (∀ f ∈ sbcForms b l h, exec f.instr s = .next t →
      let m := (operandRead f.operand s).1
      let borrow : Nat := if s.p.c then 0 else 1
      (t.a.toNat : Int) = ((s.a.toNat : Int) - m.toNat - borrow) % 256 ∧
      t.p.c = decide (m.toNat + borrow ≤ s.a.toNat) ∧
      t.p.v = decide (s.a.toInt - m.toInt - borrow < -128 ∨ 127 < s.a.toInt - m.toInt - borrow))

/-- AND, ORA and EOR, in every form (R242, R243, R244). -/
def Obligations.LogicCombinesWithA : Prop :=
  ReadRule andForms (fun s m t => { t with a := s.a &&& m, p := nz s.p (s.a &&& m) }) ∧
  ReadRule oraForms (fun s m t => { t with a := s.a ||| m, p := nz s.p (s.a ||| m) }) ∧
  ReadRule eorForms (fun s m t => { t with a := s.a ^^^ m, p := nz s.p (s.a ^^^ m) })

/-- CMP, CPX and CPY, in every form: an unsigned comparison that changes N, Z and C alone (R245, R246, R247). -/
def Obligations.ComparesSetNZC : Prop :=
  ReadRule cmpForms (fun s m t => { t with p := compared s.p s.a m }) ∧
  ReadRule cpxForms (fun s m t => { t with p := compared s.p s.x m }) ∧
  ReadRule cpyForms (fun s m t => { t with p := compared s.p s.y m })

/-- BIT, in both forms (R248). -/
def Obligations.BitTestsMemory : Prop :=
  ReadRule bitForms (fun s m t =>
    { t with p := { s.p with z := decide (s.a &&& m = 0), n := m.getLsbD 7, v := m.getLsbD 6 } })

/-- INC and DEC on memory, in every form (R249, R250). -/
def Obligations.IncDecMemory : Prop :=
  ∀ (b l h : Byte) (s : State),
    (∀ f ∈ incForms b l h, f.Modifies
      (fun p m => let r : Byte := BitVec.ofNat 8 ((m.toNat + 1) % 256); (r, nz p r)) s) ∧
    (∀ f ∈ decForms b l h, f.Modifies
      (fun p m => let r : Byte := BitVec.ofNat 8 ((m.toNat + 255) % 256); (r, nz p r)) s)

/-- INX, INY, DEX and DEY (R251 to R254). -/
def Obligations.IncDecRegisters : Prop :=
  Implied .inx 0xE8 2 (fun s => { s with x := s.x + 1, p := nz s.p (s.x + 1) }) ∧
  Implied .iny 0xC8 2 (fun s => { s with y := s.y + 1, p := nz s.p (s.y + 1) }) ∧
  Implied .dex 0xCA 2 (fun s => { s with x := s.x - 1, p := nz s.p (s.x - 1) }) ∧
  Implied .dey 0x88 2 (fun s => { s with y := s.y - 1, p := nz s.p (s.y - 1) })

/-- ASL, LSR, ROL and ROR, in the accumulator form and every memory form, on numbers: the bit shifted out goes to C, the old
C comes in where the rule says (R270 to R273). -/
def Obligations.ShiftsAndRotates : Prop :=
  let asl : Flags → Byte → Byte × Flags := fun p v =>
    shiftedTo p (decide (128 ≤ v.toNat)) (BitVec.ofNat 8 (v.toNat * 2 % 256))
  let lsr : Flags → Byte → Byte × Flags := fun p v =>
    shiftedTo p (decide (v.toNat % 2 = 1)) (BitVec.ofNat 8 (v.toNat / 2))
  let rol : Flags → Byte → Byte × Flags := fun p v =>
    shiftedTo p (decide (128 ≤ v.toNat)) (BitVec.ofNat 8 (v.toNat * 2 % 256 + if p.c then 1 else 0))
  let ror : Flags → Byte → Byte × Flags := fun p v =>
    shiftedTo p (decide (v.toNat % 2 = 1)) (BitVec.ofNat 8 (v.toNat / 2 + if p.c then 128 else 0))
  ∀ (b l h : Byte) (s : State),
    (ModifiesA .aslA 0x0A asl s ∧ ∀ f ∈ aslForms b l h, f.Modifies asl s) ∧
    (ModifiesA .lsrA 0x4A lsr s ∧ ∀ f ∈ lsrForms b l h, f.Modifies lsr s) ∧
    (ModifiesA .rolA 0x2A rol s ∧ ∀ f ∈ rolForms b l h, f.Modifies rol s) ∧
    (ModifiesA .rorA 0x6A ror s ∧ ∀ f ∈ rorForms b l h, f.Modifies ror s)

/-! ### Control transfer -/

/-- The eight conditional branches: the condition, the target on the integers, and the 2, 3 or 4 cycles
(R204, R281 to R283, R285 to R288). The cycles are those of the formula of R280, also where the prose of R280 and R284 gives
another count: the model's choice (log 24). -/
def Obligations.BranchesGoToTheirTarget : Prop :=
  ∀ f ∈ branchForms, ∀ (off : Byte) (s : State),
    Encodes (f.instr off) [f.opcode, off] ∧
    (f.cond s.p = true →
      exec (f.instr off) s = .next { s with
        pc := BitVec.ofNat 16 (branchTarget s off), extraCycles := 0
        cycles := if branchNext s / 256 = branchTarget s off / 256 then 3 else 4 }) ∧
    (f.cond s.p = false →
      exec (f.instr off) s = .next { s with
        pc := BitVec.ofNat 16 (branchNext s), extraCycles := 0, cycles := 2 })

/-- JMP absolute, and JMP indirect with the two pointer reads in one page (R203, R289). -/
def Obligations.JumpsSetPc : Prop :=
  ∀ (l h : Byte) (s : State),
    let ptr := hiLo h l
    let ptr' := hiLo h (l + 1)
    (Encodes (.jmpAbs ptr) [0x4C, l, h] ∧
      exec (.jmpAbs ptr) s = .next { s with pc := ptr, extraCycles := 0, cycles := 3 }) ∧
    (Encodes (.jmpInd ptr) [0x6C, l, h] ∧
      (unmapped ptr = false → unmapped ptr' = false →
        exec (.jmpInd ptr) s = .next { (busRead ptr' (busRead ptr s).2).2 with
          pc := hiLo (busRead ptr' (busRead ptr s).2).1 (busRead ptr s).1, extraCycles := 0, cycles := 5 }) ∧
      (unmapped ptr = true → exec (.jmpInd ptr) s = .fault (.unmappedAddress ptr)) ∧
      (unmapped ptr = false → unmapped ptr' = true → exec (.jmpInd ptr) s = .fault (.unmappedAddress ptr')))

/-- JSR pushes the address of the call's last byte, high byte first, and RTS goes to the pulled address plus 1
(R290, R291). -/
def Obligations.CallAndReturn : Prop :=
  ∀ (l h : Byte) (s : State),
    (Encodes (.jsr (hiLo h l)) [0x20, l, h] ∧
      exec (.jsr (hiLo h l)) s = .next { s with
        ram := stackPut (stackPut s.ram s.sp (hiByte (s.pc + 2))) (s.sp - 1) (loByte (s.pc + 2))
        sp := s.sp - 2, pc := hiLo h l, extraCycles := 0, cycles := 6 }) ∧
    (Encodes .rts [0x60] ∧
      exec .rts s = .next { s with
        sp := s.sp + 2, pc := hiLo (stackAt s (s.sp + 2)) (stackAt s (s.sp + 1)) + 1, extraCycles := 0, cycles := 6 })

/-- BRK under both policies: the software interrupt through 0xFFFE, whatever I holds, or the end of the run (R292). -/
def Obligations.BrkInterruptsOrHalts : Prop :=
  Encodes .brk [0x00] ∧
  ∀ s : State,
    (s.params.brkPolicy = .vector →
      exec .brk s = .next { s with
        ram := interruptFrame s (s.pc + 2) true, sp := s.sp - 3, p := { s.p with i := true }
        pc := vectorWord s 0xFFFE 0xFFFF, extraCycles := 0, cycles := 7 }) ∧
    (s.params.brkPolicy = .halt →
      exec .brk s = .next { s with status := .halted, pc := s.pc + 2, extraCycles := 0, cycles := 7 })

/-- RTI pulls the status, then PC, with no 1 added (R293, R38). -/
def Obligations.RtiRestoresStatusAndPc : Prop :=
  Encodes .rti [0x40] ∧
  ∀ s : State,
    let b := stackAt s (s.sp + 1)
    exec .rti s = .next { s with
      sp := s.sp + 3
      p := { n := b.getLsbD 7, v := b.getLsbD 6, b := b.getLsbD 4, d := b.getLsbD 3, i := b.getLsbD 2
             z := b.getLsbD 1, c := b.getLsbD 0 }
      pc := hiLo (stackAt s (s.sp + 3)) (stackAt s (s.sp + 2)), extraCycles := 0, cycles := 6 }

/-! ### Stack and flag instructions -/

/-- PHA, PHP, PLA and PLP (R300 to R303), and the pushed status byte as a number: every flag in its place, bit 5 always 1 and
bit 4 as the pusher says; the stored B plays no part (R37). -/
def Obligations.PushesAndPulls : Prop :=
  Implied .pha 0x48 3 (fun s => { s with ram := stackPut s.ram s.sp s.a, sp := s.sp - 1 }) ∧
  Implied .php 0x08 3 (fun s => { s with ram := stackPut s.ram s.sp (s.p.pack true), sp := s.sp - 1 }) ∧
  Implied .pla 0x68 4 (fun s =>
    { s with sp := s.sp + 1, a := stackAt s (s.sp + 1), p := nz s.p (stackAt s (s.sp + 1)) }) ∧
  Implied .plp 0x28 4 (fun s =>
    let b := stackAt s (s.sp + 1)
    { s with
      sp := s.sp + 1
      p := { n := b.getLsbD 7, v := b.getLsbD 6, b := b.getLsbD 4, d := b.getLsbD 3, i := b.getLsbD 2
             z := b.getLsbD 1, c := b.getLsbD 0 } }) ∧
  ∀ (p : Flags) (bflag : Bool),
    (p.pack bflag).toNat =
      (if p.n then 128 else 0) + (if p.v then 64 else 0) + 32 + (if bflag then 16 else 0) + (if p.d then 8 else 0) +
        (if p.i then 4 else 0) + (if p.z then 2 else 0) + (if p.c then 1 else 0)

/-- What goes on the stack comes back, wherever SP stands: a call and its return, PHA and PLA, PHP and PLP (but for B, which
becomes 1), and an interrupt's entry and RTI (but for B) (R206, R291, R303, R345). -/
def Obligations.StackRoundTrips : Prop :=
  ∀ (s : State) (target pc : Addr),
    (∃ t u, exec (.jsr target) s = .next t ∧ exec .rts { t with pc := pc } = .next u ∧
      u.pc = s.pc + 3 ∧ u.sp = s.sp ∧ u.a = s.a ∧ u.x = s.x ∧ u.y = s.y ∧ u.p = s.p) ∧
    (∃ t u, exec .pha s = .next t ∧ exec .pla t = .next u ∧ u.a = s.a ∧ u.sp = s.sp) ∧
    (∃ t u, exec .php s = .next t ∧ exec .plp t = .next u ∧ u.p = { s.p with b := true } ∧ u.sp = s.sp) ∧
    (∀ entry ∈ [nmiEntry, irqEntry], ∃ u, exec .rti { entry s with pc := pc } = .next u ∧
      u.pc = s.pc ∧ u.sp = s.sp ∧ u.p = { s.p with b := s.params.pushBOnHwInterrupt } ∧
      u.a = s.a ∧ u.x = s.x ∧ u.y = s.y)

/-- The seven flag instructions and NOP: one flag, or nothing (R304 to R311). -/
def Obligations.FlagInstructionsAndNop : Prop :=
  Implied .clc 0x18 2 (fun s => { s with p := { s.p with c := false } }) ∧
  Implied .cld 0xD8 2 (fun s => { s with p := { s.p with d := false } }) ∧
  Implied .cli 0x58 2 (fun s => { s with p := { s.p with i := false } }) ∧
  Implied .clv 0xB8 2 (fun s => { s with p := { s.p with v := false } }) ∧
  Implied .sec 0x38 2 (fun s => { s with p := { s.p with c := true } }) ∧
  Implied .sed 0xF8 2 (fun s => { s with p := { s.p with d := true } }) ∧
  Implied .sei 0x78 2 (fun s => { s with p := { s.p with i := true } }) ∧
  Implied .nop 0xEA 2 (fun s => s)

/-! ### Frames -/

/-- What the read class leaves unchanged: every register but the one it loads, every flag but those it names, RAM and PRG, the
PPU's memories; the picture unit as a whole unless the operand is in the register window, and the controller unless it is at
0x4016 (R205, R220 to R222, R240 to R248). -/
def Obligations.ReadClassFrame : Prop :=
  ∀ (b l h : Byte) (s t : State),
    ∀ row ∈ [(ldaForms, ({ a := true, n := true, z := true } : Touches)), (ldxForms, { x := true, n := true, z := true }),
        (ldyForms, { y := true, n := true, z := true }), (adcForms, { a := true, n := true, v := true, z := true, c := true }),
        (sbcForms, { a := true, n := true, v := true, z := true, c := true }),
        (andForms, { a := true, n := true, z := true }), (oraForms, { a := true, n := true, z := true }),
        (eorForms, { a := true, n := true, z := true }), (cmpForms, { n := true, z := true, c := true }),
        (cpxForms, { n := true, z := true, c := true }), (cpyForms, { n := true, z := true, c := true }),
        (bitForms, { n := true, v := true, z := true })],
      ∀ f ∈ row.1 b l h, exec f.instr s = .next t →
        Unchanged row.2 s t ∧ MemoryUnchanged s t ∧
        t.ppu.vram = s.ppu.vram ∧ t.ppu.palette = s.ppu.palette ∧ t.ppu.oam = s.ppu.oam ∧
        ((∀ m, f.operand = .mem m → ¬inPpuWindow (m.ea s)) → t.ppu = s.ppu) ∧
        ((∀ m, f.operand = .mem m → (m.ea s).toNat ≠ 0x4016) → t.ctl = s.ctl)

/-- What a store leaves unchanged: every register and flag, and every byte of memory but the one at its effective address
(with that byte's mirrors); the picture unit unless the address is in the register window or is 0x4014, and the controller
unless it is 0x4014 or 0x4016 (R205, R223 to R225). -/
def Obligations.StoreFrame : Prop :=
  ∀ (b l h : Byte) (s t : State), ∀ f ∈ staForms b l h ++ stxForms b l h ++ styForms b l h,
    exec f.instr s = .next t →
      Unchanged {} s t ∧
      (∀ a, ¬SameRamByte a (f.operand.ea s) → t.peek a = s.peek a) ∧
      (¬inPpuWindow (f.operand.ea s) → (f.operand.ea s).toNat ≠ 0x4014 → t.ppu = s.ppu) ∧
      ((f.operand.ea s).toNat ≠ 0x4014 → (f.operand.ea s).toNat ≠ 0x4016 → t.ctl = s.ctl)

/-- What a read-modify-write instruction on memory leaves unchanged: every register, every flag but N and Z (and C, for the
shifts), and every byte of memory but the one at its effective address (R205, R249, R250, R270 to R273). -/
def Obligations.ModifyFrame : Prop :=
  ∀ (b l h : Byte) (s t : State),
    ∀ row ∈ [(incForms, ({ n := true, z := true } : Touches)), (decForms, { n := true, z := true }),
        (aslForms, { n := true, z := true, c := true }), (lsrForms, { n := true, z := true, c := true }),
        (rolForms, { n := true, z := true, c := true }), (rorForms, { n := true, z := true, c := true })],
      ∀ f ∈ row.1 b l h, exec f.instr s = .next t →
        Unchanged row.2 s t ∧
        (∀ a, ¬SameRamByte a (f.operand.ea s) → t.peek a = s.peek a) ∧
        (¬inPpuWindow (f.operand.ea s) → (f.operand.ea s).toNat ≠ 0x4014 → t.ppu = s.ppu) ∧
        ((f.operand.ea s).toNat ≠ 0x4014 → (f.operand.ea s).toNat ≠ 0x4016 → t.ctl = s.ctl)

/-- What the pushing instructions leave unchanged: every register but SP, every flag (but I, for BRK), the devices, and every
byte of memory but the stack places pushed to, the first at `0x0100 + SP` and the others below it, wrapping within the page
(R206, R290, R292, R300, R301). -/
def Obligations.PushFrame : Prop :=
  ∀ (s t : State) (target : Addr),
    ∀ row ∈ [(Instr.pha, 1, ({ sp := true } : Touches)), (.php, 1, { sp := true }), (.jsr target, 2, { sp := true }),
        (.brk, 3, { sp := true, i := true })],
      exec row.1 s = .next t →
        Unchanged row.2.2 s { t with status := s.status } ∧
        (t.status = s.status ∨ (row.1 = .brk ∧ s.params.brkPolicy = .halt)) ∧
        DevicesUnchanged s t ∧
        (∀ a, (∀ k < row.2.1, ¬SameRamByte a (stackAddr (s.sp - BitVec.ofNat 8 k))) → t.peek a = s.peek a)

/-- What the other instructions leave unchanged: they store nothing, touch no device but for the two pointer reads of JMP
indirect, and change the registers and flags named beside each (R193, R203, R226 to R231, R251 to R254, R270 to R273, R280,
R289, R291, R293, R302 to R311). -/
def Obligations.RegisterInstructionFrame : Prop :=
  ∀ (s t : State) (off : Byte) (a : Addr),
    ∀ row ∈ ([(.tax, { x := true, n := true, z := true }), (.tay, { y := true, n := true, z := true }),
        (.tsx, { x := true, n := true, z := true }), (.txa, { a := true, n := true, z := true }), (.txs, { sp := true }),
        (.tya, { a := true, n := true, z := true }), (.inx, { x := true, n := true, z := true }),
        (.iny, { y := true, n := true, z := true }), (.dex, { x := true, n := true, z := true }),
        (.dey, { y := true, n := true, z := true }), (.aslA, { a := true, n := true, z := true, c := true }),
        (.lsrA, { a := true, n := true, z := true, c := true }), (.rolA, { a := true, n := true, z := true, c := true }),
        (.rorA, { a := true, n := true, z := true, c := true }), (.bcc off, {}), (.bcs off, {}), (.beq off, {}),
        (.bmi off, {}), (.bne off, {}), (.bpl off, {}), (.bvc off, {}), (.bvs off, {}), (.jmpAbs a, {}), (.jmpInd a, {}),
        (.rts, { sp := true }),
        (.rti, { sp := true, n := true, v := true, b := true, d := true, i := true, z := true, c := true }),
        (.pla, { a := true, sp := true, n := true, z := true }),
        (.plp, { sp := true, n := true, v := true, b := true, d := true, i := true, z := true, c := true }),
        (.clc, { c := true }), (.cld, { d := true }), (.cli, { i := true }), (.clv, { v := true }), (.sec, { c := true }),
        (.sed, { d := true }), (.sei, { i := true }), (.nop, {})] : List (Instr × Touches)),
      exec row.1 s = .next t →
        Unchanged row.2 s t ∧ MemoryUnchanged s t ∧ (row.1 ≠ .jmpInd a → DevicesUnchanged s t)

/-! ### Whole-machine rules -/

/-- Who writes what, over all 151 instructions: a register or flag that differs after an instruction is one the spec's lists
name for it, and memory differs only after an instruction that stores (R31 to R34, R39, R205, R206). -/
def Obligations.WritersOfRegistersAndFlags : Prop :=
  ∀ (i : Instr) (s t : State), exec i s = .next t →
    (t.a ≠ s.a → writesA i = true) ∧ (t.x ≠ s.x → writesX i = true) ∧ (t.y ≠ s.y → writesY i = true) ∧
    (t.sp ≠ s.sp → writesSp i = true) ∧ (t.p.c ≠ s.p.c → writesC i = true) ∧ (t.p.z ≠ s.p.z → writesNZ i = true) ∧
    (t.p.n ≠ s.p.n → writesNZ i = true) ∧ (t.p.v ≠ s.p.v → writesV i = true) ∧ (t.p.i ≠ s.p.i → writesI i = true) ∧
    (t.p.d ≠ s.p.d → writesD i = true) ∧ (t.p.b ≠ s.p.b → writesB i = true) ∧
    (t.ram ≠ s.ram → storesMemory i = true)

/-- No rule reads the stored flag B: two machines that differ in it alone take steps that differ in it at most (R38). -/
def Obligations.BreakFlagIsNeverRead : Prop :=
  ∀ (s : State) (b : Bool), SameButB (step s) (step { s with p := { s.p with b := b } })

/-- ADC and SBC are binary whatever D holds: with another D, they do the same and leave that D (R256). -/
def Obligations.DecimalFlagIsIgnored : Prop :=
  ∀ (b l h : Byte) (s : State) (d : Bool), ∀ f ∈ adcForms b l h ++ sbcForms b l h,
    exec f.instr { s with p := { s.p with d := d } } =
      mapNext (fun t => { t with p := { t.p with d := d } }) (exec f.instr s)

/-- What a step never touches: the cartridge, the parameters, the IRQ line and the live buttons; the list of presented frames
only grows, and so does the cycle total (R80, R84, R392, R413, R420). And the bounds
of the count of drawn bytes, which is the model's own choice (log 1): a step never sets it back and moves it on by
`drawsPerStep` at most, and a step that faults moves it on by all of that. -/
def Obligations.StepLeavesHostInputs : Prop :=
  (∀ s t : State, step s = .next t →
    t.cart = s.cart ∧ t.params = s.params ∧ t.irqLine = s.irqLine ∧ t.ctl.buttons = s.ctl.buttons ∧
    (∃ l, t.frames = s.frames ++ l) ∧ s.cyclesTotal ≤ t.cyclesTotal ∧
    s.draws ≤ t.draws ∧ t.draws ≤ s.draws + Config.drawsPerStep) ∧
  (∀ (s : State) (r : Fault), s.status = .running → step s = .fault r →
    (driverStep s).draws = s.draws + Config.drawsPerStep)

/-! ### The CPU bus -/

/-- RAM is 2 KiB mirrored four times: what a read and a write do; a read has no side effect, a write is read back at every
mirror, and no other byte of RAM changes (R102, R103). -/
def Obligations.RamMirrors : Prop :=
  ∀ (s : State) (a b : Addr) (v : Byte), a.toNat < 0x2000 → b.toNat < 0x2000 →
    read b s = .ok (Memory.read 0 s.ram (b.toNat % 0x800), s) ∧
    write a v s = .ok { s with ram := Memory.write 0 s.ram (a.toNat % 0x800) v } ∧
    (∃ t, write a v s = .ok t ∧
      (a.toNat % 0x800 = b.toNat % 0x800 → read b t = .ok (v, t)) ∧
      (a.toNat % 0x800 ≠ b.toNat % 0x800 → ∃ w, read b s = .ok (w, s) ∧ read b t = .ok (w, t)))

/-- An image is accepted exactly when the four checks of R120 pass, and of a rejected one the first check that fails, in R120's
order, gives the error; an accepted cartridge has the image's bytes and layout (R120). With it inserted, a read of 0x8000 to
0xFFFF gives the image's PRG byte at `(addr - 0x8000) mod len(prg)` and changes nothing (R121). -/
def Obligations.PrgReadsTheImage : Prop :=
  (∀ img : CartridgeImage,
    let mapperOk := img.mapper = 0
    let prgOk := img.prg.length = 16384 ∨ img.prg.length = 32768
    let chrOk := img.chr.length = 8192
    let layoutOk := img.layout = .horizontal ∨ img.layout = .vertical
    ((∃ c, ingest img = .ok c) ↔ mapperOk ∧ prgOk ∧ chrOk ∧ layoutOk) ∧
    (¬mapperOk → ingest img = .error (.unsupportedMapper img.mapper)) ∧
    (mapperOk → ¬prgOk → ingest img = .error (.badPrgSize img.prg.length)) ∧
    (mapperOk → prgOk → ¬chrOk → ingest img = .error (.badChrSize img.chr.length)) ∧
    (mapperOk → prgOk → chrOk → ¬layoutOk → ingest img = .error .unsupportedMirroring) ∧
    (∀ c, ingest img = .ok c →
      (∀ k < img.prg.length, some (Memory.read 0 c.prg k) = img.prg[k]?) ∧
      (∀ k < 8192, some (Memory.read 0 c.chr k) = img.chr[k]?) ∧
      (img.layout = .horizontal → c.mirroring = .horizontal) ∧ (img.layout = .vertical → c.mirroring = .vertical))) ∧
  (∀ (img : CartridgeImage) (s : State) (a : Addr), ingest img = .ok s.cart → 0x8000 ≤ a.toNat →
    ∃ v, img.prg[(a.toNat - 0x8000) % img.prg.length]? = some v ∧ read a s = .ok (v, s))

/-- The rest of the CPU space: sound registers and empty cartridge space give a free open-bus byte and take no write, PRG takes
no write; 0x4018 to 0x401F fault on a read, a write, a fetch and a DMA read (R112, R114, R115, R122, R123). Beside them, the
read of a write-only PPU register, at any mirror, gives a free open-bus byte and changes nothing. -/
def Obligations.BusOutsideMemory : Prop :=
  ∀ (s : State) (a : Addr) (v : Byte),
    (inPpuWindow a → (a.toNat % 8 = 0 ∨ a.toNat % 8 = 1 ∨ a.toNat % 8 = 3 ∨ a.toNat % 8 = 5 ∨ a.toNat % 8 = 6) →
      read a s = .ok (Config.draw s.draws, { s with draws := s.draws + 1 })) ∧
    (((0x4000 ≤ a.toNat ∧ a.toNat ≤ 0x4017 ∧ a.toNat ≠ 0x4016) ∨ (0x4020 ≤ a.toNat ∧ a.toNat ≤ 0x7FFF)) →
      read a s = .ok (Config.draw s.draws, { s with draws := s.draws + 1 })) ∧
    (((0x4000 ≤ a.toNat ∧ a.toNat ≤ 0x4017 ∧ a.toNat ≠ 0x4014 ∧ a.toNat ≠ 0x4016) ∨ 0x4020 ≤ a.toNat) →
      write a v s = .ok s) ∧
    ((0x4018 ≤ a.toNat ∧ a.toNat ≤ 0x401F) →
      read a s = .error (.unmappedAddress a) ∧ write a v s = .error (.unmappedAddress a) ∧
      (runsInstruction s → s.pc = a → step s = .fault (.unmappedAddress a))) ∧
    write 0x4014 0x40 s = .error (.unmappedAddress 0x4018)

/-- OAM DMA. From every page but 0x40, which faults, it completes: the 256 copies in order, each through the bus with its side
effects, and the cycles. So, wrapping in OAM from `oam_addr` on, which stays: from RAM or PRG the page's bytes land there, and
nothing else changes; from empty cartridge space 256 free bytes; and from the PPU's registers the status flags at each third
byte of eight, vblank in the first of them alone, at each fifth byte the byte OAMDATA reads (the first one copied), `v` moved
by 32 PPUDATA reads, vblank and `w` clear, and nothing else of the machine changed but the read buffer (R113). -/
def Obligations.OamDmaCopiesThePage : Prop :=
  ∀ (s : State) (d : Byte),
    let u := s.ppu
    let cycles := s.extraCycles + s.params.oamDmaCycles
    let place := fun (oam : Memory Byte) (i : Byte) => Memory.read 0 oam (u.oamAddr + i).toNat
    (d ≠ 0x40 → write 0x4014 d s = .ok { afterCopies d 256 s with extraCycles := cycles }) ∧
    (d = 0x40 → write 0x4014 d s = .error (.unmappedAddress 0x4018)) ∧
    (d.toNat < 0x20 ∨ 0x80 ≤ d.toNat →
      ∃ oam, write 0x4014 d s = .ok { s with ppu := { u with oam := oam }, extraCycles := cycles } ∧
        ∀ i : Byte, s.peek (hiLo d i) = some (place oam i)) ∧
    (0x41 ≤ d.toNat → d.toNat < 0x80 →
      ∃ oam, write 0x4014 d s =
          .ok { s with ppu := { u with oam := oam }, draws := s.draws + 256, extraCycles := cycles } ∧
        ∀ i : Byte, place oam i = Config.draw (s.draws + i.toNat)) ∧
    (0x20 ≤ d.toNat → d.toNat < 0x40 →
      ∃ oam buffer draws, write 0x4014 d s = .ok { s with
          ppu := { u with
            oam := oam, readBuffer := buffer, vblank := false, w := false
            v := u.v + if u.ctrl.getLsbD 2 then 32 * 32 else 32 }
          draws := draws, extraCycles := cycles } ∧
        (∀ i : Byte, i.toNat % 8 = 2 →
          (place oam i).getLsbD 7 = (u.vblank && decide (i.toNat = 2)) ∧
          (place oam i).getLsbD 6 = u.sprite0Hit ∧ (place oam i).getLsbD 5 = u.spriteOverflow) ∧
        (∀ i : Byte, i.toNat % 8 = 4 → place oam i = place oam 0))

/-! ### The picture unit's registers and memories -/

/-- Writes to PPUCTRL, PPUMASK, PPUSTATUS, OAMADDR, PPUSCROLL and PPUADDR, at any mirror, change what the rules name and nothing
else; no write raises an NMI (R60, R61, R63, R65, R66, R104). -/
def Obligations.PpuRegisterWrites : Prop :=
  ∀ (s : State) (a : Addr) (d : Byte), inPpuWindow a →
    let u := s.ppu
    (a.toNat % 8 = 0 → write a d s = .ok { s with
      ppu := { u with ctrl := d, t := (u.t &&& ~~~0x0C00#15) ||| ((d &&& 0x03#8).setWidth 15 <<< 10) } }) ∧
    (a.toNat % 8 = 1 → write a d s = .ok { s with ppu := { u with mask := d } }) ∧
    (a.toNat % 8 = 2 → write a d s = .ok s) ∧
    (a.toNat % 8 = 3 → write a d s = .ok { s with ppu := { u with oamAddr := d } }) ∧
    (a.toNat % 8 = 5 → u.w = false → write a d s = .ok { s with
      ppu := { u with t := (u.t &&& ~~~0x001F#15) ||| (d >>> 3).setWidth 15, x := (d &&& 0x07#8).setWidth 3, w := true } }) ∧
    (a.toNat % 8 = 5 → u.w = true → write a d s = .ok { s with
      ppu := { u with
        t := (u.t &&& ~~~0x73E0#15) ||| ((d &&& 0x07#8).setWidth 15 <<< 12) ||| ((d >>> 3).setWidth 15 <<< 5), w := false } }) ∧
    (a.toNat % 8 = 6 → u.w = false → write a d s = .ok { s with
      ppu := { u with t := (u.t &&& 0x00FF#15) ||| ((d &&& 0x3F#8).setWidth 15 <<< 8), w := true } }) ∧
    (a.toNat % 8 = 6 → u.w = true → write a d s = .ok { s with
      ppu := { u with
        t := (u.t &&& 0x7F00#15) ||| d.setWidth 15, v := (u.t &&& 0x7F00#15) ||| d.setWidth 15, w := false } })

/-- The two pairs of writes, from `w = 0`, on numbers: PPUSCROLL twice sets coarse and fine scroll and keeps the nametable
bits, PPUADDR twice sets `t` and `v` to the 14-bit address (R56, R65, R66). -/
def Obligations.ScrollAndAddressPairs : Prop :=
  ∀ (c : Cartridge) (u : Ppu) (d1 d2 : Byte), u.w = false →
    (let q := Ppu.writeReg c (Ppu.writeReg c u 5 d1) 5 d2;
      q.w = false ∧ q.v = u.v ∧ q.x.toNat = d1.toNat % 8 ∧ q.t.toNat % 32 = d1.toNat / 8 ∧
      q.t.toNat / 32 % 32 = d2.toNat / 8 ∧ q.t.toNat / 1024 % 4 = u.t.toNat / 1024 % 4 ∧
      q.t.toNat / 4096 = d2.toNat % 8) ∧
    (let q := Ppu.writeReg c (Ppu.writeReg c u 6 d1) 6 d2;
      q.w = false ∧ q.v = q.t ∧ q.t.toNat = d1.toNat % 64 * 256 + d2.toNat)

/-- A PPUSTATUS read, at any mirror: the flags as they stood, open-bus bits below; then vblank and `w` clear, and nothing else,
`nmi_pending` least of all; a write does nothing (R62). -/
def Obligations.StatusReadClearsVblank : Prop :=
  ∀ (s : State) (a : Addr), inPpuWindow a → a.toNat % 8 = 2 →
    (∀ d, write a d s = .ok s) ∧
    ∃ v, read a s = .ok (v, { s with
        ppu := { s.ppu with vblank := false, w := false }, draws := s.draws + 1 }) ∧
      v.getLsbD 7 = s.ppu.vblank ∧ v.getLsbD 6 = s.ppu.sprite0Hit ∧ v.getLsbD 5 = s.ppu.spriteOverflow ∧
      v &&& 0x1F = Config.draw s.draws &&& 0x1F

/-- OAMDATA and PPUDATA, at any mirror: what a write stores and advances, what a read gives, refills and advances
(R64, R67). -/
def Obligations.DataPorts : Prop :=
  ∀ (s : State) (a : Addr) (d : Byte), inPpuWindow a →
    let u := s.ppu
    let pa : PpuAddr := u.v.setWidth 14
    let v' : VAddr := u.v + if u.ctrl.getLsbD 2 then 32 else 1
    (a.toNat % 8 = 4 →
      write a d s = .ok { s with
        ppu := { u with oam := Memory.write 0 u.oam u.oamAddr.toNat d, oamAddr := u.oamAddr + 1 } } ∧
      read a s = .ok (Memory.read 0 u.oam u.oamAddr.toNat, s)) ∧
    (a.toNat % 8 = 7 →
      write a d s = .ok { s with ppu := { ppuWrite s.cart u pa d with v := v' } } ∧
      (pa.toNat < 0x3F00 → read a s = .ok (u.readBuffer, { s with
        ppu := { u with readBuffer := ppuRead s.cart u 0 pa, v := v' } })) ∧
      (0x3F00 ≤ pa.toNat → read a s = .ok (ppuRead s.cart u (Config.draw s.draws) pa, { s with
        ppu := { u with readBuffer := ppuRead s.cart u 0 (pa - 0x1000), v := v' }, draws := s.draws + 1 })))

/-- The PPU address space: what a read of each address gives and what a write does; so a write is read back, and the addresses
the rules name as mirrors are one place (R124, R131, R132, R134, R135, R136). -/
def Obligations.PpuAddressSpace : Prop :=
  ∀ (c : Cartridge) (u : Ppu) (a : PpuAddr) (open7 v : Byte),
    let nt := match c.mirroring with
      | .vertical => a.toNat / 0x400 % 2 * 0x400 + a.toNat % 0x400
      | .horizontal => a.toNat / 0x800 % 2 * 0x400 + a.toNat % 0x400
    let i := a.toNat % 0x20
    let pal := if i = 0x10 ∨ i = 0x14 ∨ i = 0x18 ∨ i = 0x1C then i - 0x10 else i
    (a.toNat < 0x2000 → ppuRead c u open7 a = Memory.read 0 c.chr a.toNat ∧ ppuWrite c u a v = u) ∧
    (0x2000 ≤ a.toNat → a.toNat < 0x3F00 →
      ppuRead c u open7 a = Memory.read 0 u.vram nt ∧ ppuWrite c u a v = { u with vram := Memory.write 0 u.vram nt v } ∧
      ppuRead c (ppuWrite c u a v) open7 a = v) ∧
    (0x3F00 ≤ a.toNat →
      ppuRead c u open7 a = (Memory.read 0 u.palette pal).setWidth 8 ||| (open7 &&& 0xC0) ∧
      ppuWrite c u a v = { u with palette := Memory.write 0 u.palette pal ((v &&& 0x3F).setWidth 6) } ∧
      ppuRead c (ppuWrite c u a v) open7 a = (v &&& 0x3F) ||| (open7 &&& 0xC0) ∧
      (a.toNat < 0x3FE0 → ppuRead c u open7 (a + 0x20) = ppuRead c u open7 a) ∧
      (a.toNat % 0x20 < 0x10 → a.toNat % 4 = 0 → ppuRead c u open7 (a + 0x10) = ppuRead c u open7 a)) ∧
    (0x2000 ≤ a.toNat → a.toNat < 0x2F00 → ppuRead c u open7 (a + 0x1000) = ppuRead c u open7 a)

/-! ### The controller -/

/-- The strobe write, the read, and the host's move (R110, R111, R402, R403, R404); and what they give together: after a strobe
of 1 and then 0, the reads give the eight buttons in order and then 1s, and while the strobe is 1, button A (R400, R401). -/
def Obligations.ControllerProtocol : Prop :=
  (∀ (s : State) (d : Byte), write 0x4016 d s = .ok { s with
    ctl := { s.ctl with strobe := d.getLsbD 0, shift := if d.getLsbD 0 then s.ctl.buttons else s.ctl.shift } }) ∧
  (∀ s : State, ∃ v, read 0x4016 s = .ok (v, { s with
      ctl := if s.ctl.strobe then s.ctl else { s.ctl with shift := (s.ctl.shift >>> 1) ||| 0x80 }, draws := s.draws + 1 }) ∧
    v.getLsbD 0 = (if s.ctl.strobe then s.ctl.buttons.getLsbD 0 else s.ctl.shift.getLsbD 0) ∧
    v &&& 0xFE = Config.draw s.draws &&& 0xFE) ∧
  (∀ (s : State) (b : Byte), setButtons b s = { s with
    ctl := { s.ctl with buttons := b, shift := if s.ctl.strobe then b else s.ctl.shift } }) ∧
  (∀ (c : Controller) (k : Nat),
    (afterReads k ((c.afterStrobe 1).afterStrobe 0)).bit = (if k < 8 then c.buttons.getLsbD k else true) ∧
    (afterReads k (c.afterStrobe 1)).bit = c.buttons.getLsbD 0)

/-! ### The picture unit's time -/

/-- A frame from (0, 0): before its last tick each tick moves one dot on and completes no frame; its last tick returns to
(0, 0), changes the parity, and completes exactly one frame, the one handed out. A frame is 89342 ticks, or 89341 when the
odd-frame skip applies (R361, R362, R390). -/
def Obligations.FrameLength : Prop :=
  ∀ (c : Cartridge) (skip : Bool) (u : Ppu), u.scanline = 0 → u.dot = 0 →
    (∀ n, n < frameTicks skip u →
      (ticks c skip n u).ppu.scanline = n / 341 ∧ (ticks c skip n u).ppu.dot = n % 341 ∧
      (ticks c skip n u).frames = []) ∧
    (∀ n, n = frameTicks skip u →
      (ticks c skip n u).ppu.scanline = 0 ∧ (ticks c skip n u).ppu.dot = 0 ∧
      (ticks c skip n u).ppu.oddFrame = !u.oddFrame ∧ (ticks c skip n u).ppu.frameComplete = true ∧
      ∃ f, (ticks c skip n u).ppu.presented = some f ∧ (ticks c skip n u).frames = [f])

/-- Vertical blank and NMI over a frame from (0, 0): the tick that reaches (241, 1), number 82182, sets the vblank flag, and
asserts NMI exactly when PPUCTRL bit 7 is 1; no other tick of the frame asserts NMI; the flag stands until the tick that reaches
(261, 1), number 89002, which clears it, the pending NMI and the two sprite flags (R380, R381, R382). -/
def Obligations.NmiOncePerFrame : Prop :=
  ∀ (c : Cartridge) (skip : Bool) (u : Ppu), u.scanline = 0 → u.dot = 0 →
    (∀ n, n < frameTicks skip u →
      (tick c skip (ticks c skip n u).ppu).nmiNew = (decide (n = 82181) && u.ctrl.getLsbD 7)) ∧
    (∀ n, n < 82182 → (ticks c skip n u).ppu.vblank = u.vblank ∧ (ticks c skip n u).ppu.nmiPending = u.nmiPending) ∧
    (∀ n, 82182 ≤ n → n < 89002 → (ticks c skip n u).ppu.vblank = true ∧
      (ticks c skip n u).ppu.nmiPending = (u.nmiPending || u.ctrl.getLsbD 7)) ∧
    (∀ q, q = (ticks c skip 89002 u).ppu →
      q.vblank = false ∧ q.nmiPending = false ∧ q.sprite0Hit = false ∧ q.spriteOverflow = false)

/-- What a tick does but for the pixel. It leaves alone all that a program writes: VRAM, palette, OAM, the control and mask
registers, the OAM address, the latch `t`, fine x, the toggle and the read buffer (R70, R133, R383). The vertical-blank flags
change at (241, 1) and (261, 1) alone (R380, R382), and the parity, the handed-out frame and its flag at the end of a frame
alone (R390). The background's work at the position the tick reaches, on numbers: nothing off the visible and the pre-render
lines or with rendering disabled; else the fetch of the dot, the shift and the load of the four registers, and the moves of `v`
(R370, R371, R372, R374). The four fetches read the PPU space, the pixel pipeline is shifted by one, and a load fills the low
bytes from the latches. -/
def Obligations.BackgroundPipeline : Prop :=
  ∀ (c : Cartridge) (skip : Bool) (u : Ppu),
    let w := (tick c skip u).ppu
    let d := w.dot
    let works := renderingEnabled u = true ∧ (w.scanline ≤ 239 ∨ w.scanline = 261)
    let fetches := (2 ≤ d ∧ d ≤ 257) ∨ (321 ≤ d ∧ d ≤ 337)
    let fetched := fun (n : Nat) => (ppuRead c u 0 (BitVec.ofNat 14 n)).toNat
    let v := u.v.toNat
    let pattern := (if u.ctrl.getLsbD 4 then 0x1000 else 0) + u.ntLatch.toNat * 16 + v / 4096
    let moved := fun (r : BitVec 16) (low : Nat) =>
      if fetches then (if d % 8 = 1 then r.toNat * 2 % 65536 / 256 * 256 + low else r.toNat * 2 % 65536) else r.toNat
    let v1 := if fetches ∧ d % 8 = 0 then incCoarseX u.v else u.v
    let starts := w.scanline = 241 ∧ d = 1
    let clears := w.scanline = 261 ∧ d = 1
    (w.vram = u.vram ∧ w.palette = u.palette ∧ w.oam = u.oam ∧ w.ctrl = u.ctrl ∧ w.mask = u.mask ∧
      w.oamAddr = u.oamAddr ∧ w.t = u.t ∧ w.x = u.x ∧ w.w = u.w ∧ w.readBuffer = u.readBuffer) ∧
    (w.vblank = (if starts then true else if clears then false else u.vblank) ∧
      w.nmiPending = (if starts then u.nmiPending || u.ctrl.getLsbD 7 else if clears then false else u.nmiPending) ∧
      w.sprite0Hit = (if clears then false else u.sprite0Hit) ∧
      w.spriteOverflow = (if clears then false else u.spriteOverflow)) ∧
    ((tick c skip u).frameDone = false →
      w.oddFrame = u.oddFrame ∧ w.presented = u.presented ∧ w.frameComplete = u.frameComplete) ∧
    ((tick c skip u).frameDone = true → w.scanline = 0 ∧ d = 0 ∧
      w.oddFrame = !u.oddFrame ∧ w.presented = some u.frame ∧ w.frameComplete = true) ∧
    (¬works →
      w.v = u.v ∧ w.ntLatch = u.ntLatch ∧ w.atLatch = u.atLatch ∧ w.ptLoLatch = u.ptLoLatch ∧ w.ptHiLatch = u.ptHiLatch ∧
      w.shPatLo = u.shPatLo ∧ w.shPatHi = u.shPatHi ∧ w.shAttLo = u.shAttLo ∧ w.shAttHi = u.shAttHi) ∧
    (works →
      w.ntLatch.toNat = (if fetches ∧ d % 8 = 1 then fetched (0x2000 + v % 4096) else u.ntLatch.toNat) ∧
      w.atLatch.toNat =
        (if fetches ∧ d % 8 = 3 then
          fetched (0x23C0 + v / 1024 % 4 * 1024 + v / 128 % 8 * 8 + v / 4 % 8) / 2 ^ (v / 64 % 2 * 4 + v / 2 % 2 * 2) % 4
        else u.atLatch.toNat) ∧
      w.ptLoLatch.toNat = (if fetches ∧ d % 8 = 5 then fetched pattern else u.ptLoLatch.toNat) ∧
      w.ptHiLatch.toNat = (if fetches ∧ d % 8 = 7 then fetched (pattern + 8) else u.ptHiLatch.toNat) ∧
      w.shPatLo.toNat = moved u.shPatLo u.ptLoLatch.toNat ∧
      w.shPatHi.toNat = moved u.shPatHi u.ptHiLatch.toNat ∧
      w.shAttLo.toNat = moved u.shAttLo (if u.atLatch.getLsbD 0 then 255 else 0) ∧
      w.shAttHi.toNat = moved u.shAttHi (if u.atLatch.getLsbD 1 then 255 else 0) ∧
      w.v = (if d = 256 then incY v1
        else if d = 257 then (v1 &&& ~~~0x041F#15) ||| (u.t &&& 0x041F#15)
        else if w.scanline = 261 ∧ 280 ≤ d ∧ d ≤ 304 then (v1 &&& ~~~0x7BE0#15) ||| (u.t &&& 0x7BE0#15)
        else v1))

/-- The scroll arithmetic on `v`, field by field: coarse X with its nametable bit, fine and coarse Y with theirs, and the two
copies from `t` (R375, R376, R377). -/
def Obligations.ScrollArithmetic : Prop :=
  (∀ v : VAddr,
    (v.toNat % 32 < 31 → (incCoarseX v).toNat = v.toNat + 1) ∧
    (v.toNat % 32 = 31 → (incCoarseX v).toNat % 1024 = v.toNat % 1024 - 31 ∧
      (incCoarseX v).toNat / 1024 % 2 = 1 - v.toNat / 1024 % 2 ∧ (incCoarseX v).toNat / 2048 = v.toNat / 2048)) ∧
  (∀ v : VAddr,
    (v.toNat / 4096 < 7 → (incY v).toNat = v.toNat + 4096) ∧
    (v.toNat / 4096 = 7 → (incY v).toNat / 4096 = 0 ∧ (incY v).toNat % 32 = v.toNat % 32 ∧
      (incY v).toNat / 1024 % 2 = v.toNat / 1024 % 2 ∧
      (incY v).toNat / 32 % 32 =
        (if v.toNat / 32 % 32 = 29 ∨ v.toNat / 32 % 32 = 31 then 0 else v.toNat / 32 % 32 + 1) ∧
      (incY v).toNat / 2048 % 2 =
        (if v.toNat / 32 % 32 = 29 then 1 - v.toNat / 2048 % 2 else v.toNat / 2048 % 2))) ∧
  (∀ (u : Ppu) (k : Nat), k < 15 →
    u.copyHorizontal.v.getLsbD k = (if k < 5 ∨ k = 10 then u.t.getLsbD k else u.v.getLsbD k) ∧
    u.copyVertical.v.getLsbD k = (if k < 5 ∨ k = 10 then u.v.getLsbD k else u.t.getLsbD k))

/-- The pixel a tick puts out at a visible dot, from the picture unit as the tick leaves it, and no other pixel changes; at
every other dot no pixel changes (R360, R378). -/
def Obligations.PixelOutput : Prop :=
  ∀ (c : Cartridge) (skip : Bool) (u : Ppu),
    let w := (tick c skip u).ppu
    let visible := w.scanline ≤ 239 ∧ 1 ≤ w.dot ∧ w.dot ≤ 256
    let x := w.dot - 1
    let bit := fun (r : BitVec 16) => if r.getLsbD (15 - w.x.toNat) then 1 else 0
    let shown := w.mask.getLsbD 3 && (decide (8 ≤ x) || w.mask.getLsbD 1)
    let p := if shown then bit w.shPatHi * 2 + bit w.shPatLo else 0
    let idx := if p = 0 then 0 else (bit w.shAttHi * 2 + bit w.shAttLo) * 4 + p
    let colour := (Memory.read 0 w.palette idx).toNat
    (visible → (w.frame.pixelAt w.scanline x).toNat =
      w.mask.toNat / 32 * 64 + (if w.mask.getLsbD 0 then colour / 16 * 16 else colour)) ∧
    (∀ y x', ¬(visible ∧ y = w.scanline ∧ x' = x) → w.frame.pixelAt y x' = u.frame.pixelAt y x')

/-! ### Interrupts, the driver, reset -/

/-- The interrupt check and the two entries: NMI first, whatever I holds; IRQ when the line is high and I is 0; each pushes PC
and the status, sets I, goes to its vector in 7 cycles, and changes nothing else of the CPU (R330, R340, R342, R344). -/
def Obligations.InterruptEntries : Prop :=
  ∀ s : State, s.status = .running →
    (s.nmiRequest = true → step s = .next (afterCpu { s with
      ram := interruptFrame s s.pc s.params.pushBOnHwInterrupt, sp := s.sp - 3, p := { s.p with i := true }
      pc := vectorWord s 0xFFFA 0xFFFB, nmiRequest := false, cycles := 7 })) ∧
    (s.nmiRequest = false → s.irqLine = true → s.p.i = false → step s = .next (afterCpu { s with
      ram := interruptFrame s s.pc s.params.pushBOnHwInterrupt, sp := s.sp - 3, p := { s.p with i := true }
      pc := vectorWord s 0xFFFE 0xFFFF, cycles := 7 })) ∧
    (s.nmiRequest = false → (s.irqLine = false ∨ s.p.i = true) → event s = .step)

/-- The driver's part of a step of any length, from a state that meets the invariant: three dots a cycle; an NMI is requested
exactly if a tick reported one, and the flag is cleared; each frame that a tick completed is handed out, in order, and the flag
is cleared; the cycles are added; nothing else changes (R346, R391, R410, R412). In a step of up to 2273 cycles the flags, as
the ticks leave them, say the same. That the reports count in a longer step, where the flags can differ, is the model's choice
(log 25). -/
def Obligations.DriverPart : Prop :=
  ∀ s : State, s.Inv →
    let after := fun n => ticks s.cart s.params.oddFrameSkip n s.ppu
    let report := fun n => tick s.cart s.params.oddFrameSkip (after n).ppu
    let r := after (3 * s.cycles)
    let u := r.ppu
    (afterCpu s = { s with
      ppu := { u with nmiPending := false, frameComplete := false }
      nmiRequest := s.nmiRequest || r.nmiNew
      frames := s.frames ++ r.frames
      cyclesTotal := s.cyclesTotal + s.cycles }) ∧
    (r.nmiNew = true ↔ ∃ n < 3 * s.cycles, (report n).nmiNew = true) ∧
    (r.frames = (List.range (3 * s.cycles)).flatMap fun n =>
      if (report n).frameDone then (report n).ppu.presented.toList else []) ∧
    (s.cycles ≤ 2273 →
      r.nmiNew = u.nmiPending ∧ r.frames = if u.frameComplete then u.presented.toList else [])

/-- Power-on of an accepted image: every piece of state at the value the rules give or the open parameter they name
(R430, R431). The counters that are the model's own (log 1, log 8) are not spoken of. -/
def Obligations.PowerOnState : Prop :=
  ∀ (img : CartridgeImage) (cart : Cartridge) (params : Params) (ini : InitParams), ingest img = .ok cart →
    let s := powerOn cart params ini
    s = { s with
      a := ini.a, x := ini.x, y := ini.y, sp := 0xFD
      p := { n := false, v := false, b := false, d := false, i := true, z := false, c := false }
      nmiRequest := false, status := .running, cyclesTotal := 7, irqLine := false, frames := []
      ctl := { buttons := 0, shift := 0, strobe := false }, cart := cart, params := params
      ppu := { s.ppu with
        ctrl := 0, mask := 0, vblank := false, sprite0Hit := false, spriteOverflow := false, oamAddr := 0, v := 0, t := 0
        x := 0, w := false, readBuffer := 0, scanline := 0, dot := 0, oddFrame := false, nmiPending := false
        frameComplete := false, ntLatch := 0, atLatch := 0, ptLoLatch := 0, ptHiLatch := 0, shPatLo := 0, shPatHi := 0
        shAttLo := 0, shAttHi := 0, presented := none } } ∧
    (∀ y x, s.ppu.frame.pixelAt y x = 0) ∧
    (∃ lo hi, img.prg[img.prg.length - 4]? = some lo ∧ img.prg[img.prg.length - 3]? = some hi ∧ s.pc = hiLo hi lo) ∧
    (∀ k < 2048, ini.ram.length = 2048 → some (Memory.read 0 s.ram k) = ini.ram[k]?) ∧
    (∀ k < 2048, ini.vram.length = 2048 → some (Memory.read 0 s.ppu.vram k) = ini.vram[k]?) ∧
    (∀ k < 32, ini.palette.length = 32 →
      some (Memory.read 0 s.ppu.palette k).toNat = (ini.palette[k]?).map (fun b => b.toNat % 64)) ∧
    (∀ k < 256, ini.oam.length = 256 → some (Memory.read 0 s.ppu.oam k) = ini.oam[k]?)

/-- Host reset resets the CPU alone, from any status (R432); a halted or faulted machine takes no step until then
(R326). -/
def Obligations.HostResetState : Prop :=
  (∀ s : State, hostReset s = { s with
    sp := s.sp - 3
    p := { n := false, v := false, b := false, d := false, i := true, z := false, c := false }
    pc := vectorWord s 0xFFFC 0xFFFD, nmiRequest := false, status := .running, cyclesTotal := s.cyclesTotal + 7 }) ∧
  (∀ s : State, s.status ≠ .running → driverStep s = s)

/-! ### The invariant -/

/-- Every step keeps the invariant of the machine: the canonical form and size of every memory, a legal position, clear sprite
flags, the controller's latch rule, and both of the picture unit's flags taken (R58, R81, R386, R401, R410). -/
def Obligations.StepKeepsTheInvariant : Prop :=
  ∀ s t : State, s.Inv → step s = .next t → t.Inv

/-- The state after reset meets the invariant. The blank cartridge and the zero contents of that state are the model's choice
(log 3, 4, 5). -/
def Obligations.ResetMeetsTheInvariant : Prop := State.reset.Inv

/-- Power-on of any accepted image meets the invariant, the host's moves and the fault status keep it, and so every reachable
state meets it (R120, R401, R420, R430, R432). -/
def Obligations.ReachableStatesMeetTheInvariant : Prop :=
  (∀ (img : CartridgeImage) (cart : Cartridge) (params : Params) (ini : InitParams),
    ingest img = .ok cart → (powerOn cart params ini).Inv) ∧
  (∀ s : State, s.Inv → (∀ b, (setButtons b s).Inv) ∧ (∀ l, (driveIrqLine l s).Inv) ∧ (hostReset s).Inv ∧
    (driverStep s).Inv) ∧
  (∀ s : State, Reachable s → s.Inv)
end

