-- ==== Sys2Proof/Laws/Bytes.lean ====
section
/-! SUPPORT. The laws of bytes and words: splitting and joining a 16-bit value. -/

namespace Sys2Proof

theorem toNat_hiLo (h l : Byte) : (hiLo h l).toNat = h.toNat * 256 + l.toNat := by
  simp only [hiLo, BitVec.toNat_append]
  rw [← Nat.shiftLeft_add_eq_or_of_lt l.isLt, Nat.shiftLeft_eq]

theorem toNat_loByte (a : Addr) : (loByte a).toNat = a.toNat % 256 := by simp [loByte]

theorem toNat_hiByte (a : Addr) : (hiByte a).toNat = a.toNat / 256 := by
  simp only [hiByte, BitVec.toNat_setWidth, BitVec.toNat_ushiftRight, Nat.shiftRight_eq_div_pow]
  have := a.isLt
  omega

@[simp] theorem loByte_hiLo (h l : Byte) : loByte (hiLo h l) = l := by
  apply BitVec.eq_of_toNat_eq
  rw [toNat_loByte, toNat_hiLo]
  omega

@[simp] theorem hiByte_hiLo (h l : Byte) : hiByte (hiLo h l) = h := by
  apply BitVec.eq_of_toNat_eq
  rw [toNat_hiByte, toNat_hiLo]
  omega

@[simp] theorem hiLo_hiByte_loByte (a : Addr) : hiLo (hiByte a) (loByte a) = a := by
  apply BitVec.eq_of_toNat_eq
  rw [toNat_hiLo, toNat_hiByte, toNat_loByte]
  omega

theorem hiLo_inj {h l h' l' : Byte} (e : hiLo h l = hiLo h' l') : h = h' ∧ l = l' :=
  ⟨by simpa using congrArg hiByte e, by simpa using congrArg loByte e⟩

end Sys2Proof
end

