-- ==== Sys2Proof/Laws/Dispatch.lean ====
section
/-! SUPPORT. What each arm of the dispatch is: an instance of one of the shared operations. A proof about every
instruction splits on the shape, not on the 151 constructors. -/

namespace Sys2Proof.Machine

/-- The twelve effects of the read class. -/
inductive ReadEffect : (Byte → State → State) → Prop where
  | lda : ReadEffect loadA
  | ldx : ReadEffect loadX
  | ldy : ReadEffect loadY
  | adc : ReadEffect adcEffect
  | sbc : ReadEffect sbcEffect
  | and : ReadEffect andEffect
  | ora : ReadEffect oraEffect
  | eor : ReadEffect eorEffect
  | cmp : ReadEffect cmpEffect
  | cpx : ReadEffect cpxEffect
  | cpy : ReadEffect cpyEffect
  | bit : ReadEffect bitEffect

/-- The six operations of the read-modify-write class. -/
inductive RmwOp : (Flags → Byte → RmwResult) → Prop where
  | asl : RmwOp aslOp
  | lsr : RmwOp lsrOp
  | rol : RmwOp rolOp
  | ror : RmwOp rorOp
  | inc : RmwOp incOp
  | dec : RmwOp decOp

/-- The effects of the implied instructions. -/
inductive ImpliedEffect : (State → State) → Prop where
  | tax : ImpliedEffect (fun s => loadX s.a s)
  | tay : ImpliedEffect (fun s => loadY s.a s)
  | tsx : ImpliedEffect (fun s => loadX s.sp s)
  | txa : ImpliedEffect (fun s => loadA s.x s)
  | txs : ImpliedEffect (fun s => s.setSp s.x)
  | tya : ImpliedEffect (fun s => loadA s.y s)
  | inx : ImpliedEffect (fun s => loadX (s.x + 1) s)
  | iny : ImpliedEffect (fun s => loadY (s.y + 1) s)
  | dex : ImpliedEffect (fun s => loadX (s.x - 1) s)
  | dey : ImpliedEffect (fun s => loadY (s.y - 1) s)
  | pha : ImpliedEffect (fun s => push s.a s)
  | php : ImpliedEffect (fun s => push (s.p.pack true) s)
  | pla : ImpliedEffect (fun s => loadA (pulled s) (pull s))
  | plp : ImpliedEffect (fun s => (pull s).setP (Flags.unpack (pulled s)))
  | clc : ImpliedEffect (fun s => s.setP { s.p with c := false })
  | cld : ImpliedEffect (fun s => s.setP { s.p with d := false })
  | cli : ImpliedEffect (fun s => s.setP { s.p with i := false })
  | clv : ImpliedEffect (fun s => s.setP { s.p with v := false })
  | sec : ImpliedEffect (fun s => s.setP { s.p with c := true })
  | sed : ImpliedEffect (fun s => s.setP { s.p with d := true })
  | sei : ImpliedEffect (fun s => s.setP { s.p with i := true })
  | nop : ImpliedEffect (fun s => s)
  | rts : ImpliedEffect (fun s => (pull16 s).setPc (pulled16 s + 1))
  | rti : ImpliedEffect (returnFromInterrupt)

/-- The conditions of the branches. -/
inductive BranchCond : (State → Bool) → Prop where
  | bcc : BranchCond (fun s => !s.p.c)
  | bcs : BranchCond (fun s => s.p.c)
  | beq : BranchCond (fun s => s.p.z)
  | bmi : BranchCond (fun s => s.p.n)
  | bne : BranchCond (fun s => !s.p.z)
  | bpl : BranchCond (fun s => !s.p.n)
  | bvc : BranchCond (fun s => !s.p.v)
  | bvs : BranchCond (fun s => s.p.v)

/-- The shapes an instruction's meaning can have. -/
inductive Shape : (State → Host.Outcome State Fault Refusal) → Prop where
  | read (o : Operand) {e : Byte → State → State} (h : ReadEffect e) : Shape (fun s => readInstr o e s)
  | sta (m : MemOperand) : Shape (fun s => writeInstr m s.a s)
  | stx (m : MemOperand) : Shape (fun s => writeInstr m s.x s)
  | sty (m : MemOperand) : Shape (fun s => writeInstr m s.y s)
  | rmw (m : MemOperand) {op : Flags → Byte → RmwResult} (h : RmwOp op) : Shape (fun s => rmwInstr m op s)
  | acc {op : Flags → Byte → RmwResult} (h : RmwOp op) : Shape (fun s => accInstr op s)
  | implied (n : Nat) {e : State → State} (h : ImpliedEffect e) : Shape (fun s => impliedInstr n e s)
  | branch {c : State → Bool} (h : BranchCond c) (off : Byte) : Shape (fun s => branchInstr (c s) off s)
  | jmpAbs (a : Addr) : Shape (execJmpAbs a)
  | jmpInd (a : Addr) : Shape (execJmpInd a)
  | jsr (a : Addr) : Shape (execJsr a)
  | brk : Shape execBrk

/-- Every instruction has one of the shapes. -/
theorem exec_shape (i : Instr) : Shape (exec i) :=
  match i with
  | .ldaImm imm => .read (.imm imm) .lda
  | .ldaZp zp => .read (.mem (.zp zp)) .lda
  | .ldaZpX zp => .read (.mem (.zpX zp)) .lda
  | .ldaAbs addr => .read (.mem (.abs addr)) .lda
  | .ldaAbsX addr => .read (.mem (.absX addr)) .lda
  | .ldaAbsY addr => .read (.mem (.absY addr)) .lda
  | .ldaIndX zp => .read (.mem (.indX zp)) .lda
  | .ldaIndY zp => .read (.mem (.indY zp)) .lda
  | .ldxImm imm => .read (.imm imm) .ldx
  | .ldxZp zp => .read (.mem (.zp zp)) .ldx
  | .ldxZpY zp => .read (.mem (.zpY zp)) .ldx
  | .ldxAbs addr => .read (.mem (.abs addr)) .ldx
  | .ldxAbsY addr => .read (.mem (.absY addr)) .ldx
  | .ldyImm imm => .read (.imm imm) .ldy
  | .ldyZp zp => .read (.mem (.zp zp)) .ldy
  | .ldyZpX zp => .read (.mem (.zpX zp)) .ldy
  | .ldyAbs addr => .read (.mem (.abs addr)) .ldy
  | .ldyAbsX addr => .read (.mem (.absX addr)) .ldy
  | .staZp zp => .sta (.zp zp)
  | .staZpX zp => .sta (.zpX zp)
  | .staAbs addr => .sta (.abs addr)
  | .staAbsX addr => .sta (.absX addr)
  | .staAbsY addr => .sta (.absY addr)
  | .staIndX zp => .sta (.indX zp)
  | .staIndY zp => .sta (.indY zp)
  | .stxZp zp => .stx (.zp zp)
  | .stxZpY zp => .stx (.zpY zp)
  | .stxAbs addr => .stx (.abs addr)
  | .styZp zp => .sty (.zp zp)
  | .styZpX zp => .sty (.zpX zp)
  | .styAbs addr => .sty (.abs addr)
  | .tax => .implied 2 .tax
  | .tay => .implied 2 .tay
  | .tsx => .implied 2 .tsx
  | .txa => .implied 2 .txa
  | .txs => .implied 2 .txs
  | .tya => .implied 2 .tya
  | .adcImm imm => .read (.imm imm) .adc
  | .adcZp zp => .read (.mem (.zp zp)) .adc
  | .adcZpX zp => .read (.mem (.zpX zp)) .adc
  | .adcAbs addr => .read (.mem (.abs addr)) .adc
  | .adcAbsX addr => .read (.mem (.absX addr)) .adc
  | .adcAbsY addr => .read (.mem (.absY addr)) .adc
  | .adcIndX zp => .read (.mem (.indX zp)) .adc
  | .adcIndY zp => .read (.mem (.indY zp)) .adc
  | .sbcImm imm => .read (.imm imm) .sbc
  | .sbcZp zp => .read (.mem (.zp zp)) .sbc
  | .sbcZpX zp => .read (.mem (.zpX zp)) .sbc
  | .sbcAbs addr => .read (.mem (.abs addr)) .sbc
  | .sbcAbsX addr => .read (.mem (.absX addr)) .sbc
  | .sbcAbsY addr => .read (.mem (.absY addr)) .sbc
  | .sbcIndX zp => .read (.mem (.indX zp)) .sbc
  | .sbcIndY zp => .read (.mem (.indY zp)) .sbc
  | .andImm imm => .read (.imm imm) .and
  | .andZp zp => .read (.mem (.zp zp)) .and
  | .andZpX zp => .read (.mem (.zpX zp)) .and
  | .andAbs addr => .read (.mem (.abs addr)) .and
  | .andAbsX addr => .read (.mem (.absX addr)) .and
  | .andAbsY addr => .read (.mem (.absY addr)) .and
  | .andIndX zp => .read (.mem (.indX zp)) .and
  | .andIndY zp => .read (.mem (.indY zp)) .and
  | .oraImm imm => .read (.imm imm) .ora
  | .oraZp zp => .read (.mem (.zp zp)) .ora
  | .oraZpX zp => .read (.mem (.zpX zp)) .ora
  | .oraAbs addr => .read (.mem (.abs addr)) .ora
  | .oraAbsX addr => .read (.mem (.absX addr)) .ora
  | .oraAbsY addr => .read (.mem (.absY addr)) .ora
  | .oraIndX zp => .read (.mem (.indX zp)) .ora
  | .oraIndY zp => .read (.mem (.indY zp)) .ora
  | .eorImm imm => .read (.imm imm) .eor
  | .eorZp zp => .read (.mem (.zp zp)) .eor
  | .eorZpX zp => .read (.mem (.zpX zp)) .eor
  | .eorAbs addr => .read (.mem (.abs addr)) .eor
  | .eorAbsX addr => .read (.mem (.absX addr)) .eor
  | .eorAbsY addr => .read (.mem (.absY addr)) .eor
  | .eorIndX zp => .read (.mem (.indX zp)) .eor
  | .eorIndY zp => .read (.mem (.indY zp)) .eor
  | .cmpImm imm => .read (.imm imm) .cmp
  | .cmpZp zp => .read (.mem (.zp zp)) .cmp
  | .cmpZpX zp => .read (.mem (.zpX zp)) .cmp
  | .cmpAbs addr => .read (.mem (.abs addr)) .cmp
  | .cmpAbsX addr => .read (.mem (.absX addr)) .cmp
  | .cmpAbsY addr => .read (.mem (.absY addr)) .cmp
  | .cmpIndX zp => .read (.mem (.indX zp)) .cmp
  | .cmpIndY zp => .read (.mem (.indY zp)) .cmp
  | .cpxImm imm => .read (.imm imm) .cpx
  | .cpxZp zp => .read (.mem (.zp zp)) .cpx
  | .cpxAbs addr => .read (.mem (.abs addr)) .cpx
  | .cpyImm imm => .read (.imm imm) .cpy
  | .cpyZp zp => .read (.mem (.zp zp)) .cpy
  | .cpyAbs addr => .read (.mem (.abs addr)) .cpy
  | .bitZp zp => .read (.mem (.zp zp)) .bit
  | .bitAbs addr => .read (.mem (.abs addr)) .bit
  | .incZp zp => .rmw (.zp zp) .inc
  | .incZpX zp => .rmw (.zpX zp) .inc
  | .incAbs addr => .rmw (.abs addr) .inc
  | .incAbsX addr => .rmw (.absX addr) .inc
  | .decZp zp => .rmw (.zp zp) .dec
  | .decZpX zp => .rmw (.zpX zp) .dec
  | .decAbs addr => .rmw (.abs addr) .dec
  | .decAbsX addr => .rmw (.absX addr) .dec
  | .inx => .implied 2 .inx
  | .iny => .implied 2 .iny
  | .dex => .implied 2 .dex
  | .dey => .implied 2 .dey
  | .aslA => .acc .asl
  | .aslZp zp => .rmw (.zp zp) .asl
  | .aslZpX zp => .rmw (.zpX zp) .asl
  | .aslAbs addr => .rmw (.abs addr) .asl
  | .aslAbsX addr => .rmw (.absX addr) .asl
  | .lsrA => .acc .lsr
  | .lsrZp zp => .rmw (.zp zp) .lsr
  | .lsrZpX zp => .rmw (.zpX zp) .lsr
  | .lsrAbs addr => .rmw (.abs addr) .lsr
  | .lsrAbsX addr => .rmw (.absX addr) .lsr
  | .rolA => .acc .rol
  | .rolZp zp => .rmw (.zp zp) .rol
  | .rolZpX zp => .rmw (.zpX zp) .rol
  | .rolAbs addr => .rmw (.abs addr) .rol
  | .rolAbsX addr => .rmw (.absX addr) .rol
  | .rorA => .acc .ror
  | .rorZp zp => .rmw (.zp zp) .ror
  | .rorZpX zp => .rmw (.zpX zp) .ror
  | .rorAbs addr => .rmw (.abs addr) .ror
  | .rorAbsX addr => .rmw (.absX addr) .ror
  | .bcc off => .branch .bcc off
  | .bcs off => .branch .bcs off
  | .beq off => .branch .beq off
  | .bmi off => .branch .bmi off
  | .bne off => .branch .bne off
  | .bpl off => .branch .bpl off
  | .bvc off => .branch .bvc off
  | .bvs off => .branch .bvs off
  | .jmpAbs addr => .jmpAbs addr
  | .jmpInd ptr => .jmpInd ptr
  | .jsr addr => .jsr addr
  | .rts => .implied 6 .rts
  | .brk => .brk
  | .rti => .implied 6 .rti
  | .pha => .implied 3 .pha
  | .php => .implied 3 .php
  | .pla => .implied 4 .pla
  | .plp => .implied 4 .plp
  | .clc => .implied 2 .clc
  | .cld => .implied 2 .cld
  | .cli => .implied 2 .cli
  | .clv => .implied 2 .clv
  | .sec => .implied 2 .sec
  | .sed => .implied 2 .sed
  | .sei => .implied 2 .sei
  | .nop => .implied 2 .nop

end Sys2Proof.Machine
end

