-- ==== Sys2Proof/Laws/Memory.lean ====
section
/-! SUPPORT. The laws of a memory: a read after a write, the canonical form, its size, and that two memories in canonical
form that read alike are equal. -/

namespace Sys2Proof.Machine

variable {α : Type}

@[simp] theorem Memory.read_nil (d : α) (k : Nat) : Memory.read d [] k = d := rfl

theorem Memory.read_cons (d : α) (k' k : Nat) (v : α) (m : Memory α) :
    Memory.read d ((k', v) :: m) k = if k = k' then v else Memory.read d m k := rfl

@[simp] theorem Memory.below_nil (n : Nat) : Memory.below n ([] : Memory α) = true := rfl

theorem Memory.above_mono {lo lo' : Nat} {m : Memory α} (h : lo' ≤ lo) (hm : Memory.above lo m = true) :
    Memory.above lo' m = true := by
  simp only [Memory.above, List.all_eq_true, decide_eq_true_eq] at hm ⊢
  intro c hc
  have := hm c hc
  omega

/-- A value read is a listed one or the default. -/
theorem Memory.read_mem (d : α) (m : Memory α) (k : Nat) :
    Memory.read d m k = d ∨ (k, Memory.read d m k) ∈ m := by
  induction m with
  | nil => exact .inl rfl
  | cons c m ih =>
    obtain ⟨k', v'⟩ := c
    simp only [Memory.read]
    split_ifs with h
    · subst h; exact .inr (by simp)
    · rcases ih with h' | h'
      · exact .inl h'
      · exact .inr (List.mem_cons_of_mem _ h')

theorem Memory.read_of_above (d : α) (m : Memory α) (k lo : Nat) (h : Memory.above lo m = true) (hk : k < lo) :
    Memory.read d m k = d := by
  rcases Memory.read_mem d m k with h' | h'
  · exact h'
  · simp only [Memory.above, List.all_eq_true, decide_eq_true_eq] at h
    have := h _ h'
    omega

variable [DecidableEq α]

@[simp] theorem Memory.wf_nil (d : α) : Memory.wf d [] = true := rfl

@[simp] theorem Memory.read_write_self (d : α) (m : Memory α) (k : Nat) (v : α) :
    Memory.read d (Memory.write d m k v) k = v := by
  induction m with
  | nil => by_cases h : v = d <;> simp [Memory.write, Memory.read, h]
  | cons c m ih =>
    obtain ⟨k', v'⟩ := c
    simp only [Memory.write]
    split_ifs with h1 h2 h3
    · exact ih
    · simp [Memory.read]
    · simp [Memory.read]
    · simp [Memory.read, h1, ih]

theorem Memory.read_write_other (d : α) (m : Memory α) (k j : Nat) (v : α) (h : j ≠ k) :
    Memory.read d (Memory.write d m k v) j = Memory.read d m j := by
  induction m with
  | nil => by_cases hv : v = d <;> simp [Memory.write, Memory.read, hv, h]
  | cons c m ih =>
    obtain ⟨k', v'⟩ := c
    simp only [Memory.write]
    split_ifs with h1 h2 h3
    · subst h1; simp [Memory.read, h, ih]
    · subst h1; simp [Memory.read, h]
    · simp [Memory.read, h]
    · simp [Memory.read, ih]

theorem Memory.write_above (d : α) (m : Memory α) (k lo : Nat) (v : α) (hk : lo ≤ k)
    (hm : Memory.above lo m = true) : Memory.above lo (Memory.write d m k v) = true := by
  induction m with
  | nil => by_cases hv : v = d <;> simp [Memory.write, Memory.above, hv, hk]
  | cons c m ih =>
    obtain ⟨k', v'⟩ := c
    simp only [Memory.above, List.all_cons, Bool.and_eq_true] at hm ih ⊢
    simp only [Memory.write]
    split_ifs with h1 h2 h3
    · exact ih hm.2
    · simpa [hk] using hm.2
    · simpa [hk] using hm
    · simpa using ⟨by simpa using hm.1, by simpa using ih hm.2⟩

/-- A write keeps the canonical form. -/
theorem Memory.write_wf (d : α) (m : Memory α) (k : Nat) (v : α) (hm : Memory.wf d m = true) :
    Memory.wf d (Memory.write d m k v) = true := by
  induction m with
  | nil => by_cases hv : v = d <;> simp [Memory.write, Memory.wf, Memory.above, hv]
  | cons c m ih =>
    obtain ⟨k', v'⟩ := c
    simp only [Memory.wf, Bool.and_eq_true] at hm
    obtain ⟨⟨hv', ha⟩, hw⟩ := hm
    simp only [Memory.write]
    split_ifs with h1 h2 h3
    · exact ih hw
    · subst h1; simp [Memory.wf, h2, ha, hw]
    · have hk : Memory.above (k + 1) ((k', v') :: m) = true := by
        simp only [Memory.above, List.all_cons, Bool.and_eq_true]
        exact ⟨by simpa using h3.1, Memory.above_mono (by omega) ha⟩
      simp only [Memory.wf, hk, hv', ha, hw]
      simp [h3.2]
    · have hlt : k' + 1 ≤ k ∨ v = d := by
        by_cases hv : v = d
        · exact .inr hv
        · have : ¬ k < k' := fun h => h3 ⟨h, hv⟩
          exact .inl (by omega)
      have : Memory.above (k' + 1) (Memory.write d m k v) = true := by
        rcases hlt with hlt | rfl
        · exact Memory.write_above d m k _ v hlt ha
        · by_cases hk : k' + 1 ≤ k
          · exact Memory.write_above v m k _ v hk ha
          · clear ih hw hv' h3
            induction m with
            | nil => simp [Memory.write, Memory.above]
            | cons c m ih =>
              obtain ⟨k2, v2⟩ := c
              simp only [Memory.above, List.all_cons, Bool.and_eq_true, decide_eq_true_eq] at ha
              have : k ≠ k2 := by omega
              simp only [Memory.write, this, if_false, ne_eq, not_true_eq_false, and_false]
              simp only [Memory.above, List.all_cons, Bool.and_eq_true, decide_eq_true_eq]
              exact ⟨ha.1, ih ha.2⟩
      simp only [Memory.wf, this, hv', ih hw, Bool.and_self]

/-- A write below the size keeps every address below it. -/
theorem Memory.write_below (d : α) (m : Memory α) (k n : Nat) (v : α) (hk : k < n)
    (hm : Memory.below n m = true) : Memory.below n (Memory.write d m k v) = true := by
  induction m with
  | nil => by_cases hv : v = d <;> simp [Memory.write, Memory.below, hv, hk]
  | cons c m ih =>
    obtain ⟨k', v'⟩ := c
    simp only [Memory.below, List.all_cons, Bool.and_eq_true] at hm ih ⊢
    simp only [Memory.write]
    split_ifs with h1 h2 h3
    · exact ih hm.2
    · simpa [hk] using hm.2
    · simpa [hk] using hm
    · simpa using ⟨by simpa using hm.1, by simpa using ih hm.2⟩

/-- A property of every listed pair that the pair written has is kept by a write. -/
theorem Memory.write_all (d : α) (f : Nat × α → Bool) (m : Memory α) (k : Nat) (v : α)
    (hk : v ≠ d → f (k, v) = true) (hm : m.all f = true) : (Memory.write d m k v).all f = true := by
  induction m with
  | nil =>
    by_cases hv : v = d
    · simp [Memory.write, hv]
    · simp [Memory.write, hv, hk hv]
  | cons c m ih =>
    obtain ⟨k', v'⟩ := c
    simp only [List.all_cons, Bool.and_eq_true] at hm
    simp only [Memory.write]
    split_ifs with h1 h2 h3
    · exact ih hm.2
    · simpa [hk h2] using hm.2
    · simpa [hk h3.2] using hm
    · simpa using ⟨hm.1, by simpa using ih hm.2⟩

theorem Memory.ofListFrom_above (d : α) (k : Nat) (l : List α) :
    Memory.above k (Memory.ofListFrom d k l) = true := by
  induction l generalizing k with
  | nil => rfl
  | cons v l ih =>
    have := Memory.above_mono (Nat.le_succ k) (ih (k + 1))
    simp only [Memory.ofListFrom]
    split_ifs
    · exact this
    · simpa [Memory.above] using this

/-- A memory made from an array is in canonical form. -/
theorem Memory.ofListFrom_wf (d : α) (k : Nat) (l : List α) : Memory.wf d (Memory.ofListFrom d k l) = true := by
  induction l generalizing k with
  | nil => rfl
  | cons v l ih =>
    simp only [Memory.ofListFrom]
    split_ifs with h
    · exact ih (k + 1)
    · simp [Memory.wf, h, ih (k + 1), Memory.ofListFrom_above]

theorem Memory.ofListFrom_below (d : α) (k n : Nat) (l : List α) (h : k + l.length ≤ n) :
    Memory.below n (Memory.ofListFrom d k l) = true := by
  induction l generalizing k with
  | nil => rfl
  | cons v l ih =>
    simp only [List.length_cons] at h
    have := ih (k + 1) (by omega)
    simp only [Memory.ofListFrom]
    split_ifs
    · exact this
    · simp only [Memory.below, List.all_cons, Bool.and_eq_true, decide_eq_true_eq]
      exact ⟨by omega, this⟩

theorem Memory.ofList_wf (d : α) (n : Nat) (l : List α) : Memory.wf d (Memory.ofList d n l) = true :=
  Memory.ofListFrom_wf d 0 _

theorem Memory.ofList_below (d : α) (n : Nat) (l : List α) : Memory.below n (Memory.ofList d n l) = true :=
  Memory.ofListFrom_below d 0 n _ (by simp)

theorem Memory.read_ofListFrom (d : α) (k j : Nat) (l : List α) :
    Memory.read d (Memory.ofListFrom d k l) (k + j) = (l[j]?).getD d := by
  induction l generalizing k j with
  | nil => simp [Memory.ofListFrom]
  | cons v l ih =>
    cases j with
    | zero =>
      have hn : Memory.read d (Memory.ofListFrom d (k + 1) l) k = d := by
        rcases Memory.read_mem d (Memory.ofListFrom d (k + 1) l) k with h | h
        · exact h
        · have := Memory.ofListFrom_above d (k + 1) l
          simp only [Memory.above, List.all_eq_true, decide_eq_true_eq] at this
          have := this _ h
          omega
      simp only [Memory.ofListFrom]
      split_ifs with h
      · simp [hn, h]
      · simp [Memory.read]
    | succ j =>
      have := ih (k + 1) j
      rw [show k + 1 + j = k + (j + 1) by omega] at this
      simp only [Memory.ofListFrom]
      split_ifs with h
      · simpa using this
      · simp [Memory.read, this]

/-- A memory made from an array reads as the array, and as the default past it. -/
theorem Memory.read_ofList (d : α) (n j : Nat) (l : List α) :
    Memory.read d (Memory.ofList d n l) j = ((l.take n)[j]?).getD d := by
  have h := Memory.read_ofListFrom d 0 j (l.take n)
  rwa [Nat.zero_add] at h

/-- Two memories in canonical form that read alike everywhere are equal. -/
theorem Memory.ext (d : α) (m m' : Memory α) (hm : Memory.wf d m = true) (hm' : Memory.wf d m' = true)
    (h : ∀ k, Memory.read d m k = Memory.read d m' k) : m = m' := by
  induction m generalizing m' with
  | nil =>
    cases m' with
    | nil => rfl
    | cons c m' =>
      obtain ⟨k, v⟩ := c
      simp only [Memory.wf, Bool.and_eq_true, decide_eq_true_eq] at hm'
      have := h k
      simp [Memory.read] at this
      exact absurd this.symm hm'.1.1
  | cons c m ih =>
    obtain ⟨k, v⟩ := c
    simp only [Memory.wf, Bool.and_eq_true, decide_eq_true_eq] at hm
    obtain ⟨⟨hv, ha⟩, hw⟩ := hm
    cases m' with
    | nil =>
      have := h k
      simp [Memory.read] at this
      exact absurd this hv
    | cons c' m' =>
      obtain ⟨k', v'⟩ := c'
      simp only [Memory.wf, Bool.and_eq_true, decide_eq_true_eq] at hm'
      obtain ⟨⟨hv', ha'⟩, hw'⟩ := hm'
      have hkk : k = k' := by
        rcases Nat.lt_trichotomy k k' with hlt | heq | hgt
        · have := h k
          rw [Memory.read_cons, if_pos rfl, Memory.read_cons, if_neg (by omega),
            Memory.read_of_above d m' k (k' + 1) ha' (by omega)] at this
          exact absurd this hv
        · exact heq
        · have := h k'
          rw [Memory.read_cons, if_neg (by omega), Memory.read_of_above d m k' (k + 1) ha (by omega),
            Memory.read_cons, if_pos rfl] at this
          exact absurd this.symm hv'
      subst hkk
      have hvv : v = v' := by simpa [Memory.read] using h k
      subst hvv
      congr 1
      refine ih m' hw hw' (fun j => ?_)
      by_cases hj : j = k
      · subst hj
        rw [Memory.read_of_above d m j (j + 1) ha (by omega), Memory.read_of_above d m' j (j + 1) ha' (by omega)]
      · simpa [Memory.read, hj] using h j

end Sys2Proof.Machine
end

