-- ==== Sys2Proof/Laws/State.lean ====
section
/-! SUPPORT. The laws of the named updates of State: one per field per update, true by rfl. -/

namespace Sys2Proof.Machine

variable (s : State)

@[simp] theorem State.setA_a (w : Byte) : (s.setA w).a = w := rfl
@[simp] theorem State.setA_x (w : Byte) : (s.setA w).x = s.x := rfl
@[simp] theorem State.setA_y (w : Byte) : (s.setA w).y = s.y := rfl
@[simp] theorem State.setA_sp (w : Byte) : (s.setA w).sp = s.sp := rfl
@[simp] theorem State.setA_pc (w : Byte) : (s.setA w).pc = s.pc := rfl
@[simp] theorem State.setA_p (w : Byte) : (s.setA w).p = s.p := rfl
@[simp] theorem State.setA_nmiRequest (w : Byte) : (s.setA w).nmiRequest = s.nmiRequest := rfl
@[simp] theorem State.setA_status (w : Byte) : (s.setA w).status = s.status := rfl
@[simp] theorem State.setA_ram (w : Byte) : (s.setA w).ram = s.ram := rfl
@[simp] theorem State.setA_ppu (w : Byte) : (s.setA w).ppu = s.ppu := rfl
@[simp] theorem State.setA_ctl (w : Byte) : (s.setA w).ctl = s.ctl := rfl
@[simp] theorem State.setA_cyclesTotal (w : Byte) : (s.setA w).cyclesTotal = s.cyclesTotal := rfl
@[simp] theorem State.setA_irqLine (w : Byte) : (s.setA w).irqLine = s.irqLine := rfl
@[simp] theorem State.setA_frames (w : Byte) : (s.setA w).frames = s.frames := rfl
@[simp] theorem State.setA_extraCycles (w : Byte) : (s.setA w).extraCycles = s.extraCycles := rfl
@[simp] theorem State.setA_cycles (w : Byte) : (s.setA w).cycles = s.cycles := rfl
@[simp] theorem State.setA_draws (w : Byte) : (s.setA w).draws = s.draws := rfl
@[simp] theorem State.setA_cart (w : Byte) : (s.setA w).cart = s.cart := rfl
@[simp] theorem State.setA_params (w : Byte) : (s.setA w).params = s.params := rfl

@[simp] theorem State.setX_a (w : Byte) : (s.setX w).a = s.a := rfl
@[simp] theorem State.setX_x (w : Byte) : (s.setX w).x = w := rfl
@[simp] theorem State.setX_y (w : Byte) : (s.setX w).y = s.y := rfl
@[simp] theorem State.setX_sp (w : Byte) : (s.setX w).sp = s.sp := rfl
@[simp] theorem State.setX_pc (w : Byte) : (s.setX w).pc = s.pc := rfl
@[simp] theorem State.setX_p (w : Byte) : (s.setX w).p = s.p := rfl
@[simp] theorem State.setX_nmiRequest (w : Byte) : (s.setX w).nmiRequest = s.nmiRequest := rfl
@[simp] theorem State.setX_status (w : Byte) : (s.setX w).status = s.status := rfl
@[simp] theorem State.setX_ram (w : Byte) : (s.setX w).ram = s.ram := rfl
@[simp] theorem State.setX_ppu (w : Byte) : (s.setX w).ppu = s.ppu := rfl
@[simp] theorem State.setX_ctl (w : Byte) : (s.setX w).ctl = s.ctl := rfl
@[simp] theorem State.setX_cyclesTotal (w : Byte) : (s.setX w).cyclesTotal = s.cyclesTotal := rfl
@[simp] theorem State.setX_irqLine (w : Byte) : (s.setX w).irqLine = s.irqLine := rfl
@[simp] theorem State.setX_frames (w : Byte) : (s.setX w).frames = s.frames := rfl
@[simp] theorem State.setX_extraCycles (w : Byte) : (s.setX w).extraCycles = s.extraCycles := rfl
@[simp] theorem State.setX_cycles (w : Byte) : (s.setX w).cycles = s.cycles := rfl
@[simp] theorem State.setX_draws (w : Byte) : (s.setX w).draws = s.draws := rfl
@[simp] theorem State.setX_cart (w : Byte) : (s.setX w).cart = s.cart := rfl
@[simp] theorem State.setX_params (w : Byte) : (s.setX w).params = s.params := rfl

@[simp] theorem State.setY_a (w : Byte) : (s.setY w).a = s.a := rfl
@[simp] theorem State.setY_x (w : Byte) : (s.setY w).x = s.x := rfl
@[simp] theorem State.setY_y (w : Byte) : (s.setY w).y = w := rfl
@[simp] theorem State.setY_sp (w : Byte) : (s.setY w).sp = s.sp := rfl
@[simp] theorem State.setY_pc (w : Byte) : (s.setY w).pc = s.pc := rfl
@[simp] theorem State.setY_p (w : Byte) : (s.setY w).p = s.p := rfl
@[simp] theorem State.setY_nmiRequest (w : Byte) : (s.setY w).nmiRequest = s.nmiRequest := rfl
@[simp] theorem State.setY_status (w : Byte) : (s.setY w).status = s.status := rfl
@[simp] theorem State.setY_ram (w : Byte) : (s.setY w).ram = s.ram := rfl
@[simp] theorem State.setY_ppu (w : Byte) : (s.setY w).ppu = s.ppu := rfl
@[simp] theorem State.setY_ctl (w : Byte) : (s.setY w).ctl = s.ctl := rfl
@[simp] theorem State.setY_cyclesTotal (w : Byte) : (s.setY w).cyclesTotal = s.cyclesTotal := rfl
@[simp] theorem State.setY_irqLine (w : Byte) : (s.setY w).irqLine = s.irqLine := rfl
@[simp] theorem State.setY_frames (w : Byte) : (s.setY w).frames = s.frames := rfl
@[simp] theorem State.setY_extraCycles (w : Byte) : (s.setY w).extraCycles = s.extraCycles := rfl
@[simp] theorem State.setY_cycles (w : Byte) : (s.setY w).cycles = s.cycles := rfl
@[simp] theorem State.setY_draws (w : Byte) : (s.setY w).draws = s.draws := rfl
@[simp] theorem State.setY_cart (w : Byte) : (s.setY w).cart = s.cart := rfl
@[simp] theorem State.setY_params (w : Byte) : (s.setY w).params = s.params := rfl

@[simp] theorem State.setSp_a (w : Byte) : (s.setSp w).a = s.a := rfl
@[simp] theorem State.setSp_x (w : Byte) : (s.setSp w).x = s.x := rfl
@[simp] theorem State.setSp_y (w : Byte) : (s.setSp w).y = s.y := rfl
@[simp] theorem State.setSp_sp (w : Byte) : (s.setSp w).sp = w := rfl
@[simp] theorem State.setSp_pc (w : Byte) : (s.setSp w).pc = s.pc := rfl
@[simp] theorem State.setSp_p (w : Byte) : (s.setSp w).p = s.p := rfl
@[simp] theorem State.setSp_nmiRequest (w : Byte) : (s.setSp w).nmiRequest = s.nmiRequest := rfl
@[simp] theorem State.setSp_status (w : Byte) : (s.setSp w).status = s.status := rfl
@[simp] theorem State.setSp_ram (w : Byte) : (s.setSp w).ram = s.ram := rfl
@[simp] theorem State.setSp_ppu (w : Byte) : (s.setSp w).ppu = s.ppu := rfl
@[simp] theorem State.setSp_ctl (w : Byte) : (s.setSp w).ctl = s.ctl := rfl
@[simp] theorem State.setSp_cyclesTotal (w : Byte) : (s.setSp w).cyclesTotal = s.cyclesTotal := rfl
@[simp] theorem State.setSp_irqLine (w : Byte) : (s.setSp w).irqLine = s.irqLine := rfl
@[simp] theorem State.setSp_frames (w : Byte) : (s.setSp w).frames = s.frames := rfl
@[simp] theorem State.setSp_extraCycles (w : Byte) : (s.setSp w).extraCycles = s.extraCycles := rfl
@[simp] theorem State.setSp_cycles (w : Byte) : (s.setSp w).cycles = s.cycles := rfl
@[simp] theorem State.setSp_draws (w : Byte) : (s.setSp w).draws = s.draws := rfl
@[simp] theorem State.setSp_cart (w : Byte) : (s.setSp w).cart = s.cart := rfl
@[simp] theorem State.setSp_params (w : Byte) : (s.setSp w).params = s.params := rfl

@[simp] theorem State.setPc_a (w : Addr) : (s.setPc w).a = s.a := rfl
@[simp] theorem State.setPc_x (w : Addr) : (s.setPc w).x = s.x := rfl
@[simp] theorem State.setPc_y (w : Addr) : (s.setPc w).y = s.y := rfl
@[simp] theorem State.setPc_sp (w : Addr) : (s.setPc w).sp = s.sp := rfl
@[simp] theorem State.setPc_pc (w : Addr) : (s.setPc w).pc = w := rfl
@[simp] theorem State.setPc_p (w : Addr) : (s.setPc w).p = s.p := rfl
@[simp] theorem State.setPc_nmiRequest (w : Addr) : (s.setPc w).nmiRequest = s.nmiRequest := rfl
@[simp] theorem State.setPc_status (w : Addr) : (s.setPc w).status = s.status := rfl
@[simp] theorem State.setPc_ram (w : Addr) : (s.setPc w).ram = s.ram := rfl
@[simp] theorem State.setPc_ppu (w : Addr) : (s.setPc w).ppu = s.ppu := rfl
@[simp] theorem State.setPc_ctl (w : Addr) : (s.setPc w).ctl = s.ctl := rfl
@[simp] theorem State.setPc_cyclesTotal (w : Addr) : (s.setPc w).cyclesTotal = s.cyclesTotal := rfl
@[simp] theorem State.setPc_irqLine (w : Addr) : (s.setPc w).irqLine = s.irqLine := rfl
@[simp] theorem State.setPc_frames (w : Addr) : (s.setPc w).frames = s.frames := rfl
@[simp] theorem State.setPc_extraCycles (w : Addr) : (s.setPc w).extraCycles = s.extraCycles := rfl
@[simp] theorem State.setPc_cycles (w : Addr) : (s.setPc w).cycles = s.cycles := rfl
@[simp] theorem State.setPc_draws (w : Addr) : (s.setPc w).draws = s.draws := rfl
@[simp] theorem State.setPc_cart (w : Addr) : (s.setPc w).cart = s.cart := rfl
@[simp] theorem State.setPc_params (w : Addr) : (s.setPc w).params = s.params := rfl

@[simp] theorem State.setP_a (w : Flags) : (s.setP w).a = s.a := rfl
@[simp] theorem State.setP_x (w : Flags) : (s.setP w).x = s.x := rfl
@[simp] theorem State.setP_y (w : Flags) : (s.setP w).y = s.y := rfl
@[simp] theorem State.setP_sp (w : Flags) : (s.setP w).sp = s.sp := rfl
@[simp] theorem State.setP_pc (w : Flags) : (s.setP w).pc = s.pc := rfl
@[simp] theorem State.setP_p (w : Flags) : (s.setP w).p = w := rfl
@[simp] theorem State.setP_nmiRequest (w : Flags) : (s.setP w).nmiRequest = s.nmiRequest := rfl
@[simp] theorem State.setP_status (w : Flags) : (s.setP w).status = s.status := rfl
@[simp] theorem State.setP_ram (w : Flags) : (s.setP w).ram = s.ram := rfl
@[simp] theorem State.setP_ppu (w : Flags) : (s.setP w).ppu = s.ppu := rfl
@[simp] theorem State.setP_ctl (w : Flags) : (s.setP w).ctl = s.ctl := rfl
@[simp] theorem State.setP_cyclesTotal (w : Flags) : (s.setP w).cyclesTotal = s.cyclesTotal := rfl
@[simp] theorem State.setP_irqLine (w : Flags) : (s.setP w).irqLine = s.irqLine := rfl
@[simp] theorem State.setP_frames (w : Flags) : (s.setP w).frames = s.frames := rfl
@[simp] theorem State.setP_extraCycles (w : Flags) : (s.setP w).extraCycles = s.extraCycles := rfl
@[simp] theorem State.setP_cycles (w : Flags) : (s.setP w).cycles = s.cycles := rfl
@[simp] theorem State.setP_draws (w : Flags) : (s.setP w).draws = s.draws := rfl
@[simp] theorem State.setP_cart (w : Flags) : (s.setP w).cart = s.cart := rfl
@[simp] theorem State.setP_params (w : Flags) : (s.setP w).params = s.params := rfl

@[simp] theorem State.setNmiRequest_a (w : Bool) : (s.setNmiRequest w).a = s.a := rfl
@[simp] theorem State.setNmiRequest_x (w : Bool) : (s.setNmiRequest w).x = s.x := rfl
@[simp] theorem State.setNmiRequest_y (w : Bool) : (s.setNmiRequest w).y = s.y := rfl
@[simp] theorem State.setNmiRequest_sp (w : Bool) : (s.setNmiRequest w).sp = s.sp := rfl
@[simp] theorem State.setNmiRequest_pc (w : Bool) : (s.setNmiRequest w).pc = s.pc := rfl
@[simp] theorem State.setNmiRequest_p (w : Bool) : (s.setNmiRequest w).p = s.p := rfl
@[simp] theorem State.setNmiRequest_nmiRequest (w : Bool) : (s.setNmiRequest w).nmiRequest = w := rfl
@[simp] theorem State.setNmiRequest_status (w : Bool) : (s.setNmiRequest w).status = s.status := rfl
@[simp] theorem State.setNmiRequest_ram (w : Bool) : (s.setNmiRequest w).ram = s.ram := rfl
@[simp] theorem State.setNmiRequest_ppu (w : Bool) : (s.setNmiRequest w).ppu = s.ppu := rfl
@[simp] theorem State.setNmiRequest_ctl (w : Bool) : (s.setNmiRequest w).ctl = s.ctl := rfl
@[simp] theorem State.setNmiRequest_cyclesTotal (w : Bool) : (s.setNmiRequest w).cyclesTotal = s.cyclesTotal := rfl
@[simp] theorem State.setNmiRequest_irqLine (w : Bool) : (s.setNmiRequest w).irqLine = s.irqLine := rfl
@[simp] theorem State.setNmiRequest_frames (w : Bool) : (s.setNmiRequest w).frames = s.frames := rfl
@[simp] theorem State.setNmiRequest_extraCycles (w : Bool) : (s.setNmiRequest w).extraCycles = s.extraCycles := rfl
@[simp] theorem State.setNmiRequest_cycles (w : Bool) : (s.setNmiRequest w).cycles = s.cycles := rfl
@[simp] theorem State.setNmiRequest_draws (w : Bool) : (s.setNmiRequest w).draws = s.draws := rfl
@[simp] theorem State.setNmiRequest_cart (w : Bool) : (s.setNmiRequest w).cart = s.cart := rfl
@[simp] theorem State.setNmiRequest_params (w : Bool) : (s.setNmiRequest w).params = s.params := rfl

@[simp] theorem State.setStatus_a (w : RunStatus) : (s.setStatus w).a = s.a := rfl
@[simp] theorem State.setStatus_x (w : RunStatus) : (s.setStatus w).x = s.x := rfl
@[simp] theorem State.setStatus_y (w : RunStatus) : (s.setStatus w).y = s.y := rfl
@[simp] theorem State.setStatus_sp (w : RunStatus) : (s.setStatus w).sp = s.sp := rfl
@[simp] theorem State.setStatus_pc (w : RunStatus) : (s.setStatus w).pc = s.pc := rfl
@[simp] theorem State.setStatus_p (w : RunStatus) : (s.setStatus w).p = s.p := rfl
@[simp] theorem State.setStatus_nmiRequest (w : RunStatus) : (s.setStatus w).nmiRequest = s.nmiRequest := rfl
@[simp] theorem State.setStatus_status (w : RunStatus) : (s.setStatus w).status = w := rfl
@[simp] theorem State.setStatus_ram (w : RunStatus) : (s.setStatus w).ram = s.ram := rfl
@[simp] theorem State.setStatus_ppu (w : RunStatus) : (s.setStatus w).ppu = s.ppu := rfl
@[simp] theorem State.setStatus_ctl (w : RunStatus) : (s.setStatus w).ctl = s.ctl := rfl
@[simp] theorem State.setStatus_cyclesTotal (w : RunStatus) : (s.setStatus w).cyclesTotal = s.cyclesTotal := rfl
@[simp] theorem State.setStatus_irqLine (w : RunStatus) : (s.setStatus w).irqLine = s.irqLine := rfl
@[simp] theorem State.setStatus_frames (w : RunStatus) : (s.setStatus w).frames = s.frames := rfl
@[simp] theorem State.setStatus_extraCycles (w : RunStatus) : (s.setStatus w).extraCycles = s.extraCycles := rfl
@[simp] theorem State.setStatus_cycles (w : RunStatus) : (s.setStatus w).cycles = s.cycles := rfl
@[simp] theorem State.setStatus_draws (w : RunStatus) : (s.setStatus w).draws = s.draws := rfl
@[simp] theorem State.setStatus_cart (w : RunStatus) : (s.setStatus w).cart = s.cart := rfl
@[simp] theorem State.setStatus_params (w : RunStatus) : (s.setStatus w).params = s.params := rfl

@[simp] theorem State.setRam_a (w : Memory Byte) : (s.setRam w).a = s.a := rfl
@[simp] theorem State.setRam_x (w : Memory Byte) : (s.setRam w).x = s.x := rfl
@[simp] theorem State.setRam_y (w : Memory Byte) : (s.setRam w).y = s.y := rfl
@[simp] theorem State.setRam_sp (w : Memory Byte) : (s.setRam w).sp = s.sp := rfl
@[simp] theorem State.setRam_pc (w : Memory Byte) : (s.setRam w).pc = s.pc := rfl
@[simp] theorem State.setRam_p (w : Memory Byte) : (s.setRam w).p = s.p := rfl
@[simp] theorem State.setRam_nmiRequest (w : Memory Byte) : (s.setRam w).nmiRequest = s.nmiRequest := rfl
@[simp] theorem State.setRam_status (w : Memory Byte) : (s.setRam w).status = s.status := rfl
@[simp] theorem State.setRam_ram (w : Memory Byte) : (s.setRam w).ram = w := rfl
@[simp] theorem State.setRam_ppu (w : Memory Byte) : (s.setRam w).ppu = s.ppu := rfl
@[simp] theorem State.setRam_ctl (w : Memory Byte) : (s.setRam w).ctl = s.ctl := rfl
@[simp] theorem State.setRam_cyclesTotal (w : Memory Byte) : (s.setRam w).cyclesTotal = s.cyclesTotal := rfl
@[simp] theorem State.setRam_irqLine (w : Memory Byte) : (s.setRam w).irqLine = s.irqLine := rfl
@[simp] theorem State.setRam_frames (w : Memory Byte) : (s.setRam w).frames = s.frames := rfl
@[simp] theorem State.setRam_extraCycles (w : Memory Byte) : (s.setRam w).extraCycles = s.extraCycles := rfl
@[simp] theorem State.setRam_cycles (w : Memory Byte) : (s.setRam w).cycles = s.cycles := rfl
@[simp] theorem State.setRam_draws (w : Memory Byte) : (s.setRam w).draws = s.draws := rfl
@[simp] theorem State.setRam_cart (w : Memory Byte) : (s.setRam w).cart = s.cart := rfl
@[simp] theorem State.setRam_params (w : Memory Byte) : (s.setRam w).params = s.params := rfl

@[simp] theorem State.setPpu_a (w : Ppu) : (s.setPpu w).a = s.a := rfl
@[simp] theorem State.setPpu_x (w : Ppu) : (s.setPpu w).x = s.x := rfl
@[simp] theorem State.setPpu_y (w : Ppu) : (s.setPpu w).y = s.y := rfl
@[simp] theorem State.setPpu_sp (w : Ppu) : (s.setPpu w).sp = s.sp := rfl
@[simp] theorem State.setPpu_pc (w : Ppu) : (s.setPpu w).pc = s.pc := rfl
@[simp] theorem State.setPpu_p (w : Ppu) : (s.setPpu w).p = s.p := rfl
@[simp] theorem State.setPpu_nmiRequest (w : Ppu) : (s.setPpu w).nmiRequest = s.nmiRequest := rfl
@[simp] theorem State.setPpu_status (w : Ppu) : (s.setPpu w).status = s.status := rfl
@[simp] theorem State.setPpu_ram (w : Ppu) : (s.setPpu w).ram = s.ram := rfl
@[simp] theorem State.setPpu_ppu (w : Ppu) : (s.setPpu w).ppu = w := rfl
@[simp] theorem State.setPpu_ctl (w : Ppu) : (s.setPpu w).ctl = s.ctl := rfl
@[simp] theorem State.setPpu_cyclesTotal (w : Ppu) : (s.setPpu w).cyclesTotal = s.cyclesTotal := rfl
@[simp] theorem State.setPpu_irqLine (w : Ppu) : (s.setPpu w).irqLine = s.irqLine := rfl
@[simp] theorem State.setPpu_frames (w : Ppu) : (s.setPpu w).frames = s.frames := rfl
@[simp] theorem State.setPpu_extraCycles (w : Ppu) : (s.setPpu w).extraCycles = s.extraCycles := rfl
@[simp] theorem State.setPpu_cycles (w : Ppu) : (s.setPpu w).cycles = s.cycles := rfl
@[simp] theorem State.setPpu_draws (w : Ppu) : (s.setPpu w).draws = s.draws := rfl
@[simp] theorem State.setPpu_cart (w : Ppu) : (s.setPpu w).cart = s.cart := rfl
@[simp] theorem State.setPpu_params (w : Ppu) : (s.setPpu w).params = s.params := rfl

@[simp] theorem State.setCtl_a (w : Controller) : (s.setCtl w).a = s.a := rfl
@[simp] theorem State.setCtl_x (w : Controller) : (s.setCtl w).x = s.x := rfl
@[simp] theorem State.setCtl_y (w : Controller) : (s.setCtl w).y = s.y := rfl
@[simp] theorem State.setCtl_sp (w : Controller) : (s.setCtl w).sp = s.sp := rfl
@[simp] theorem State.setCtl_pc (w : Controller) : (s.setCtl w).pc = s.pc := rfl
@[simp] theorem State.setCtl_p (w : Controller) : (s.setCtl w).p = s.p := rfl
@[simp] theorem State.setCtl_nmiRequest (w : Controller) : (s.setCtl w).nmiRequest = s.nmiRequest := rfl
@[simp] theorem State.setCtl_status (w : Controller) : (s.setCtl w).status = s.status := rfl
@[simp] theorem State.setCtl_ram (w : Controller) : (s.setCtl w).ram = s.ram := rfl
@[simp] theorem State.setCtl_ppu (w : Controller) : (s.setCtl w).ppu = s.ppu := rfl
@[simp] theorem State.setCtl_ctl (w : Controller) : (s.setCtl w).ctl = w := rfl
@[simp] theorem State.setCtl_cyclesTotal (w : Controller) : (s.setCtl w).cyclesTotal = s.cyclesTotal := rfl
@[simp] theorem State.setCtl_irqLine (w : Controller) : (s.setCtl w).irqLine = s.irqLine := rfl
@[simp] theorem State.setCtl_frames (w : Controller) : (s.setCtl w).frames = s.frames := rfl
@[simp] theorem State.setCtl_extraCycles (w : Controller) : (s.setCtl w).extraCycles = s.extraCycles := rfl
@[simp] theorem State.setCtl_cycles (w : Controller) : (s.setCtl w).cycles = s.cycles := rfl
@[simp] theorem State.setCtl_draws (w : Controller) : (s.setCtl w).draws = s.draws := rfl
@[simp] theorem State.setCtl_cart (w : Controller) : (s.setCtl w).cart = s.cart := rfl
@[simp] theorem State.setCtl_params (w : Controller) : (s.setCtl w).params = s.params := rfl

@[simp] theorem State.setCyclesTotal_a (w : Nat) : (s.setCyclesTotal w).a = s.a := rfl
@[simp] theorem State.setCyclesTotal_x (w : Nat) : (s.setCyclesTotal w).x = s.x := rfl
@[simp] theorem State.setCyclesTotal_y (w : Nat) : (s.setCyclesTotal w).y = s.y := rfl
@[simp] theorem State.setCyclesTotal_sp (w : Nat) : (s.setCyclesTotal w).sp = s.sp := rfl
@[simp] theorem State.setCyclesTotal_pc (w : Nat) : (s.setCyclesTotal w).pc = s.pc := rfl
@[simp] theorem State.setCyclesTotal_p (w : Nat) : (s.setCyclesTotal w).p = s.p := rfl
@[simp] theorem State.setCyclesTotal_nmiRequest (w : Nat) : (s.setCyclesTotal w).nmiRequest = s.nmiRequest := rfl
@[simp] theorem State.setCyclesTotal_status (w : Nat) : (s.setCyclesTotal w).status = s.status := rfl
@[simp] theorem State.setCyclesTotal_ram (w : Nat) : (s.setCyclesTotal w).ram = s.ram := rfl
@[simp] theorem State.setCyclesTotal_ppu (w : Nat) : (s.setCyclesTotal w).ppu = s.ppu := rfl
@[simp] theorem State.setCyclesTotal_ctl (w : Nat) : (s.setCyclesTotal w).ctl = s.ctl := rfl
@[simp] theorem State.setCyclesTotal_cyclesTotal (w : Nat) : (s.setCyclesTotal w).cyclesTotal = w := rfl
@[simp] theorem State.setCyclesTotal_irqLine (w : Nat) : (s.setCyclesTotal w).irqLine = s.irqLine := rfl
@[simp] theorem State.setCyclesTotal_frames (w : Nat) : (s.setCyclesTotal w).frames = s.frames := rfl
@[simp] theorem State.setCyclesTotal_extraCycles (w : Nat) : (s.setCyclesTotal w).extraCycles = s.extraCycles := rfl
@[simp] theorem State.setCyclesTotal_cycles (w : Nat) : (s.setCyclesTotal w).cycles = s.cycles := rfl
@[simp] theorem State.setCyclesTotal_draws (w : Nat) : (s.setCyclesTotal w).draws = s.draws := rfl
@[simp] theorem State.setCyclesTotal_cart (w : Nat) : (s.setCyclesTotal w).cart = s.cart := rfl
@[simp] theorem State.setCyclesTotal_params (w : Nat) : (s.setCyclesTotal w).params = s.params := rfl

@[simp] theorem State.setIrqLine_a (w : Bool) : (s.setIrqLine w).a = s.a := rfl
@[simp] theorem State.setIrqLine_x (w : Bool) : (s.setIrqLine w).x = s.x := rfl
@[simp] theorem State.setIrqLine_y (w : Bool) : (s.setIrqLine w).y = s.y := rfl
@[simp] theorem State.setIrqLine_sp (w : Bool) : (s.setIrqLine w).sp = s.sp := rfl
@[simp] theorem State.setIrqLine_pc (w : Bool) : (s.setIrqLine w).pc = s.pc := rfl
@[simp] theorem State.setIrqLine_p (w : Bool) : (s.setIrqLine w).p = s.p := rfl
@[simp] theorem State.setIrqLine_nmiRequest (w : Bool) : (s.setIrqLine w).nmiRequest = s.nmiRequest := rfl
@[simp] theorem State.setIrqLine_status (w : Bool) : (s.setIrqLine w).status = s.status := rfl
@[simp] theorem State.setIrqLine_ram (w : Bool) : (s.setIrqLine w).ram = s.ram := rfl
@[simp] theorem State.setIrqLine_ppu (w : Bool) : (s.setIrqLine w).ppu = s.ppu := rfl
@[simp] theorem State.setIrqLine_ctl (w : Bool) : (s.setIrqLine w).ctl = s.ctl := rfl
@[simp] theorem State.setIrqLine_cyclesTotal (w : Bool) : (s.setIrqLine w).cyclesTotal = s.cyclesTotal := rfl
@[simp] theorem State.setIrqLine_irqLine (w : Bool) : (s.setIrqLine w).irqLine = w := rfl
@[simp] theorem State.setIrqLine_frames (w : Bool) : (s.setIrqLine w).frames = s.frames := rfl
@[simp] theorem State.setIrqLine_extraCycles (w : Bool) : (s.setIrqLine w).extraCycles = s.extraCycles := rfl
@[simp] theorem State.setIrqLine_cycles (w : Bool) : (s.setIrqLine w).cycles = s.cycles := rfl
@[simp] theorem State.setIrqLine_draws (w : Bool) : (s.setIrqLine w).draws = s.draws := rfl
@[simp] theorem State.setIrqLine_cart (w : Bool) : (s.setIrqLine w).cart = s.cart := rfl
@[simp] theorem State.setIrqLine_params (w : Bool) : (s.setIrqLine w).params = s.params := rfl

@[simp] theorem State.setFrames_a (w : List Frame) : (s.setFrames w).a = s.a := rfl
@[simp] theorem State.setFrames_x (w : List Frame) : (s.setFrames w).x = s.x := rfl
@[simp] theorem State.setFrames_y (w : List Frame) : (s.setFrames w).y = s.y := rfl
@[simp] theorem State.setFrames_sp (w : List Frame) : (s.setFrames w).sp = s.sp := rfl
@[simp] theorem State.setFrames_pc (w : List Frame) : (s.setFrames w).pc = s.pc := rfl
@[simp] theorem State.setFrames_p (w : List Frame) : (s.setFrames w).p = s.p := rfl
@[simp] theorem State.setFrames_nmiRequest (w : List Frame) : (s.setFrames w).nmiRequest = s.nmiRequest := rfl
@[simp] theorem State.setFrames_status (w : List Frame) : (s.setFrames w).status = s.status := rfl
@[simp] theorem State.setFrames_ram (w : List Frame) : (s.setFrames w).ram = s.ram := rfl
@[simp] theorem State.setFrames_ppu (w : List Frame) : (s.setFrames w).ppu = s.ppu := rfl
@[simp] theorem State.setFrames_ctl (w : List Frame) : (s.setFrames w).ctl = s.ctl := rfl
@[simp] theorem State.setFrames_cyclesTotal (w : List Frame) : (s.setFrames w).cyclesTotal = s.cyclesTotal := rfl
@[simp] theorem State.setFrames_irqLine (w : List Frame) : (s.setFrames w).irqLine = s.irqLine := rfl
@[simp] theorem State.setFrames_frames (w : List Frame) : (s.setFrames w).frames = w := rfl
@[simp] theorem State.setFrames_extraCycles (w : List Frame) : (s.setFrames w).extraCycles = s.extraCycles := rfl
@[simp] theorem State.setFrames_cycles (w : List Frame) : (s.setFrames w).cycles = s.cycles := rfl
@[simp] theorem State.setFrames_draws (w : List Frame) : (s.setFrames w).draws = s.draws := rfl
@[simp] theorem State.setFrames_cart (w : List Frame) : (s.setFrames w).cart = s.cart := rfl
@[simp] theorem State.setFrames_params (w : List Frame) : (s.setFrames w).params = s.params := rfl

@[simp] theorem State.setExtraCycles_a (w : Nat) : (s.setExtraCycles w).a = s.a := rfl
@[simp] theorem State.setExtraCycles_x (w : Nat) : (s.setExtraCycles w).x = s.x := rfl
@[simp] theorem State.setExtraCycles_y (w : Nat) : (s.setExtraCycles w).y = s.y := rfl
@[simp] theorem State.setExtraCycles_sp (w : Nat) : (s.setExtraCycles w).sp = s.sp := rfl
@[simp] theorem State.setExtraCycles_pc (w : Nat) : (s.setExtraCycles w).pc = s.pc := rfl
@[simp] theorem State.setExtraCycles_p (w : Nat) : (s.setExtraCycles w).p = s.p := rfl
@[simp] theorem State.setExtraCycles_nmiRequest (w : Nat) : (s.setExtraCycles w).nmiRequest = s.nmiRequest := rfl
@[simp] theorem State.setExtraCycles_status (w : Nat) : (s.setExtraCycles w).status = s.status := rfl
@[simp] theorem State.setExtraCycles_ram (w : Nat) : (s.setExtraCycles w).ram = s.ram := rfl
@[simp] theorem State.setExtraCycles_ppu (w : Nat) : (s.setExtraCycles w).ppu = s.ppu := rfl
@[simp] theorem State.setExtraCycles_ctl (w : Nat) : (s.setExtraCycles w).ctl = s.ctl := rfl
@[simp] theorem State.setExtraCycles_cyclesTotal (w : Nat) : (s.setExtraCycles w).cyclesTotal = s.cyclesTotal := rfl
@[simp] theorem State.setExtraCycles_irqLine (w : Nat) : (s.setExtraCycles w).irqLine = s.irqLine := rfl
@[simp] theorem State.setExtraCycles_frames (w : Nat) : (s.setExtraCycles w).frames = s.frames := rfl
@[simp] theorem State.setExtraCycles_extraCycles (w : Nat) : (s.setExtraCycles w).extraCycles = w := rfl
@[simp] theorem State.setExtraCycles_cycles (w : Nat) : (s.setExtraCycles w).cycles = s.cycles := rfl
@[simp] theorem State.setExtraCycles_draws (w : Nat) : (s.setExtraCycles w).draws = s.draws := rfl
@[simp] theorem State.setExtraCycles_cart (w : Nat) : (s.setExtraCycles w).cart = s.cart := rfl
@[simp] theorem State.setExtraCycles_params (w : Nat) : (s.setExtraCycles w).params = s.params := rfl

@[simp] theorem State.setCycles_a (w : Nat) : (s.setCycles w).a = s.a := rfl
@[simp] theorem State.setCycles_x (w : Nat) : (s.setCycles w).x = s.x := rfl
@[simp] theorem State.setCycles_y (w : Nat) : (s.setCycles w).y = s.y := rfl
@[simp] theorem State.setCycles_sp (w : Nat) : (s.setCycles w).sp = s.sp := rfl
@[simp] theorem State.setCycles_pc (w : Nat) : (s.setCycles w).pc = s.pc := rfl
@[simp] theorem State.setCycles_p (w : Nat) : (s.setCycles w).p = s.p := rfl
@[simp] theorem State.setCycles_nmiRequest (w : Nat) : (s.setCycles w).nmiRequest = s.nmiRequest := rfl
@[simp] theorem State.setCycles_status (w : Nat) : (s.setCycles w).status = s.status := rfl
@[simp] theorem State.setCycles_ram (w : Nat) : (s.setCycles w).ram = s.ram := rfl
@[simp] theorem State.setCycles_ppu (w : Nat) : (s.setCycles w).ppu = s.ppu := rfl
@[simp] theorem State.setCycles_ctl (w : Nat) : (s.setCycles w).ctl = s.ctl := rfl
@[simp] theorem State.setCycles_cyclesTotal (w : Nat) : (s.setCycles w).cyclesTotal = s.cyclesTotal := rfl
@[simp] theorem State.setCycles_irqLine (w : Nat) : (s.setCycles w).irqLine = s.irqLine := rfl
@[simp] theorem State.setCycles_frames (w : Nat) : (s.setCycles w).frames = s.frames := rfl
@[simp] theorem State.setCycles_extraCycles (w : Nat) : (s.setCycles w).extraCycles = s.extraCycles := rfl
@[simp] theorem State.setCycles_cycles (w : Nat) : (s.setCycles w).cycles = w := rfl
@[simp] theorem State.setCycles_draws (w : Nat) : (s.setCycles w).draws = s.draws := rfl
@[simp] theorem State.setCycles_cart (w : Nat) : (s.setCycles w).cart = s.cart := rfl
@[simp] theorem State.setCycles_params (w : Nat) : (s.setCycles w).params = s.params := rfl

@[simp] theorem State.setDraws_a (w : Nat) : (s.setDraws w).a = s.a := rfl
@[simp] theorem State.setDraws_x (w : Nat) : (s.setDraws w).x = s.x := rfl
@[simp] theorem State.setDraws_y (w : Nat) : (s.setDraws w).y = s.y := rfl
@[simp] theorem State.setDraws_sp (w : Nat) : (s.setDraws w).sp = s.sp := rfl
@[simp] theorem State.setDraws_pc (w : Nat) : (s.setDraws w).pc = s.pc := rfl
@[simp] theorem State.setDraws_p (w : Nat) : (s.setDraws w).p = s.p := rfl
@[simp] theorem State.setDraws_nmiRequest (w : Nat) : (s.setDraws w).nmiRequest = s.nmiRequest := rfl
@[simp] theorem State.setDraws_status (w : Nat) : (s.setDraws w).status = s.status := rfl
@[simp] theorem State.setDraws_ram (w : Nat) : (s.setDraws w).ram = s.ram := rfl
@[simp] theorem State.setDraws_ppu (w : Nat) : (s.setDraws w).ppu = s.ppu := rfl
@[simp] theorem State.setDraws_ctl (w : Nat) : (s.setDraws w).ctl = s.ctl := rfl
@[simp] theorem State.setDraws_cyclesTotal (w : Nat) : (s.setDraws w).cyclesTotal = s.cyclesTotal := rfl
@[simp] theorem State.setDraws_irqLine (w : Nat) : (s.setDraws w).irqLine = s.irqLine := rfl
@[simp] theorem State.setDraws_frames (w : Nat) : (s.setDraws w).frames = s.frames := rfl
@[simp] theorem State.setDraws_extraCycles (w : Nat) : (s.setDraws w).extraCycles = s.extraCycles := rfl
@[simp] theorem State.setDraws_cycles (w : Nat) : (s.setDraws w).cycles = s.cycles := rfl
@[simp] theorem State.setDraws_draws (w : Nat) : (s.setDraws w).draws = w := rfl
@[simp] theorem State.setDraws_cart (w : Nat) : (s.setDraws w).cart = s.cart := rfl
@[simp] theorem State.setDraws_params (w : Nat) : (s.setDraws w).params = s.params := rfl

@[simp] theorem State.setCart_a (w : Cartridge) : (s.setCart w).a = s.a := rfl
@[simp] theorem State.setCart_x (w : Cartridge) : (s.setCart w).x = s.x := rfl
@[simp] theorem State.setCart_y (w : Cartridge) : (s.setCart w).y = s.y := rfl
@[simp] theorem State.setCart_sp (w : Cartridge) : (s.setCart w).sp = s.sp := rfl
@[simp] theorem State.setCart_pc (w : Cartridge) : (s.setCart w).pc = s.pc := rfl
@[simp] theorem State.setCart_p (w : Cartridge) : (s.setCart w).p = s.p := rfl
@[simp] theorem State.setCart_nmiRequest (w : Cartridge) : (s.setCart w).nmiRequest = s.nmiRequest := rfl
@[simp] theorem State.setCart_status (w : Cartridge) : (s.setCart w).status = s.status := rfl
@[simp] theorem State.setCart_ram (w : Cartridge) : (s.setCart w).ram = s.ram := rfl
@[simp] theorem State.setCart_ppu (w : Cartridge) : (s.setCart w).ppu = s.ppu := rfl
@[simp] theorem State.setCart_ctl (w : Cartridge) : (s.setCart w).ctl = s.ctl := rfl
@[simp] theorem State.setCart_cyclesTotal (w : Cartridge) : (s.setCart w).cyclesTotal = s.cyclesTotal := rfl
@[simp] theorem State.setCart_irqLine (w : Cartridge) : (s.setCart w).irqLine = s.irqLine := rfl
@[simp] theorem State.setCart_frames (w : Cartridge) : (s.setCart w).frames = s.frames := rfl
@[simp] theorem State.setCart_extraCycles (w : Cartridge) : (s.setCart w).extraCycles = s.extraCycles := rfl
@[simp] theorem State.setCart_cycles (w : Cartridge) : (s.setCart w).cycles = s.cycles := rfl
@[simp] theorem State.setCart_draws (w : Cartridge) : (s.setCart w).draws = s.draws := rfl
@[simp] theorem State.setCart_cart (w : Cartridge) : (s.setCart w).cart = w := rfl
@[simp] theorem State.setCart_params (w : Cartridge) : (s.setCart w).params = s.params := rfl

/-- Two states are equal when their fields are. -/
theorem State.eq_of_fields {s t : State} (h0 : s.a = t.a)
    (h1 : s.x = t.x)
    (h2 : s.y = t.y)
    (h3 : s.sp = t.sp)
    (h4 : s.pc = t.pc)
    (h5 : s.p = t.p)
    (h6 : s.nmiRequest = t.nmiRequest)
    (h7 : s.status = t.status)
    (h8 : s.ram = t.ram)
    (h9 : s.ppu = t.ppu)
    (h10 : s.ctl = t.ctl)
    (h11 : s.cyclesTotal = t.cyclesTotal)
    (h12 : s.irqLine = t.irqLine)
    (h13 : s.frames = t.frames)
    (h14 : s.extraCycles = t.extraCycles)
    (h15 : s.cycles = t.cycles)
    (h16 : s.draws = t.draws)
    (h17 : s.cart = t.cart)
    (h18 : s.params = t.params) : s = t := by
  cases s; cases t; simp_all

end Sys2Proof.Machine
end

