-- ==== Sys2Proof/Laws/Ops.lean ====
section
/-! SUPPORT. What each shared operation over memory and registers can do, once: the callers cite these. -/

namespace Sys2Proof.Machine

variable (s : State)

/-! ### Open bus -/

@[simp] theorem drawByte_fst : s.drawByte.1 = Config.draw s.draws := rfl
@[simp] theorem drawByte_snd : s.drawByte.2 = s.setDraws (s.draws + 1) := rfl

/-! ### Regions -/

theorem unmapped_iff (a : Addr) : unmapped a = true ↔ 0x4018 ≤ a.toNat ∧ a.toNat ≤ 0x401F := by simp [unmapped]

theorem unmapped_false_of_lt {a : Addr} (h : a.toNat < 0x4018) : unmapped a = false := by
  rw [Bool.eq_false_iff]; intro hu; rw [unmapped_iff] at hu; omega

theorem unmapped_false_of_gt {a : Addr} (h : 0x401F < a.toNat) : unmapped a = false := by
  rw [Bool.eq_false_iff]; intro hu; rw [unmapped_iff] at hu; omega

theorem ramIndex_lt (a : Addr) : ramIndex a < 0x800 := Nat.mod_lt _ (by decide)

theorem prgIndex_lt (b : PrgBanks) (a : Addr) : prgIndex b a < b.size := Nat.mod_lt _ (by cases b <;> decide)

theorem toNat_stackAddr (sp : Byte) : (stackAddr sp).toNat = 0x100 + sp.toNat := by
  simp [stackAddr, toNat_hiLo]

theorem toNat_zpAddr (b : Byte) : (zpAddr b).toNat = b.toNat := by simp [zpAddr, toNat_hiLo]

@[simp] theorem ramIndex_stackAddr (sp : Byte) : ramIndex (stackAddr sp) = 0x100 + sp.toNat := by
  have := sp.isLt
  rw [ramIndex, toNat_stackAddr]
  omega

/-! ### Reads -/

/-- A read answers a byte exactly when the address is mapped. -/
theorem read_ok_iff (a : Addr) (r : Byte × State) : read a s = .ok r ↔ unmapped a = false ∧ busRead a s = r := by
  unfold read; split <;> simp_all

/-- A read faults exactly when the address is unmapped, and names it. -/
theorem read_error_iff (a : Addr) (e : Fault) : read a s = .error e ↔ unmapped a = true ∧ e = .unmappedAddress a := by
  unfold read
  split
  · rename_i h
    simp [h, eq_comm]
  · rename_i h
    simp [h]

theorem read_of_mapped {a : Addr} (h : unmapped a = false) : read a s = .ok (busRead a s) := by simp [read, h]

theorem busRead_ram {a : Addr} (h : a.toNat < 0x2000) : busRead a s = (s.ramAt a, s) := by simp [busRead, h]

theorem busRead_prg {a : Addr} (h : 0x8000 ≤ a.toNat) : busRead a s = (s.prgAt a, s) := by
  unfold busRead
  rw [if_neg (by omega), if_neg (by omega), if_neg (by omega), if_neg (by omega)]

theorem busRead_ppu {a : Addr} (h : 0x2000 ≤ a.toNat) (h' : a.toNat < 0x4000) :
    busRead a s = readPpu (ppuRegister a) s := by
  unfold busRead
  rw [if_neg (by omega), if_pos (by omega)]

theorem busRead_controller {a : Addr} (h : a.toNat = 0x4016) : busRead a s = readController s := by
  unfold busRead
  rw [if_neg (by omega), if_neg (by omega), if_pos h]

theorem busRead_open {a : Addr} (h : 0x4000 ≤ a.toNat) (h' : a.toNat < 0x8000) (h'' : a.toNat ≠ 0x4016) :
    busRead a s = s.drawByte := by
  unfold busRead
  rw [if_neg (by omega), if_neg (by omega), if_neg h'', if_pos h']

/-- Plain memory reads as `peek` says and changes nothing. -/
theorem read_of_peek {a : Addr} {b : Byte} (h : s.peek a = some b) : read a s = .ok (b, s) := by
  unfold State.peek at h
  split at h
  · rename_i hlt
    rw [read_of_mapped s (unmapped_false_of_lt (by omega)), busRead_ram s hlt, Option.some.inj h]
  · split at h
    · rename_i hge
      rw [read_of_mapped s (unmapped_false_of_gt (by omega)), busRead_prg s hge, Option.some.inj h]
    · exact absurd h (by simp)

/-- All a bus read can change: the picture unit, the controller and the count of draws. -/
theorem busRead_changes (a : Addr) :
    ∃ u c n, (busRead a s).2 = ((s.setPpu u).setCtl c).setDraws n ∧
      (u = s.ppu ∨ u = s.ppu.afterStatusRead ∨ u = Ppu.afterDataRead s.cart s.ppu) ∧
      (c = s.ctl ∨ c = s.ctl.afterRead) := by
  unfold busRead
  split_ifs
  · exact ⟨s.ppu, s.ctl, s.draws, rfl, .inl rfl, .inl rfl⟩
  · unfold readPpu
    split
    · exact ⟨_, s.ctl, _, rfl, .inr (.inl rfl), .inl rfl⟩
    · exact ⟨s.ppu, s.ctl, s.draws, rfl, .inl rfl, .inl rfl⟩
    · split_ifs
      · exact ⟨_, s.ctl, _, rfl, .inr (.inr rfl), .inl rfl⟩
      · exact ⟨_, s.ctl, s.draws, rfl, .inr (.inr rfl), .inl rfl⟩
    · exact ⟨s.ppu, s.ctl, _, rfl, .inl rfl, .inl rfl⟩
  · exact ⟨s.ppu, _, _, rfl, .inl rfl, .inr rfl⟩
  · exact ⟨s.ppu, s.ctl, _, rfl, .inl rfl, .inl rfl⟩
  · exact ⟨s.ppu, s.ctl, s.draws, rfl, .inl rfl, .inl rfl⟩

/-! ### Writes -/

theorem write_unmapped {a : Addr} (v : Byte) (h : unmapped a = true) : write a v s = .error (.unmappedAddress a) := by
  simp [write, h]

theorem write_ram {a : Addr} (v : Byte) (h : a.toNat < 0x2000) : write a v s = .ok (s.ramPut a v) := by
  unfold write
  rw [if_neg (by simp [unmapped_false_of_lt (show a.toNat < 0x4018 by omega)]), if_pos h]

theorem write_ppu {a : Addr} (v : Byte) (h : 0x2000 ≤ a.toNat) (h' : a.toNat < 0x4000) :
    write a v s = .ok (s.setPpu (Ppu.writeReg s.cart s.ppu (ppuRegister a) v)) := by
  unfold write
  rw [if_neg (by simp [unmapped_false_of_lt (show a.toNat < 0x4018 by omega)]), if_neg (by omega), if_pos h']

theorem write_dma {a : Addr} (v : Byte) (h : a.toNat = 0x4014) : write a v s = oamDma v s := by
  unfold write
  rw [if_neg (by simp [unmapped_false_of_lt (show a.toNat < 0x4018 by omega)]), if_neg (by omega), if_neg (by omega),
    if_pos h]

theorem write_controller {a : Addr} (v : Byte) (h : a.toNat = 0x4016) :
    write a v s = .ok (s.setCtl (s.ctl.afterStrobe v)) := by
  unfold write
  rw [if_neg (by simp [unmapped_false_of_lt (show a.toNat < 0x4018 by omega)]), if_neg (by omega), if_neg (by omega),
    if_neg (by omega), if_pos h]

theorem write_ignored {a : Addr} (v : Byte) (h : 0x4000 ≤ a.toNat) (hu : unmapped a = false) (h1 : a.toNat ≠ 0x4014)
    (h2 : a.toNat ≠ 0x4016) : write a v s = .ok s := by
  unfold write
  rw [if_neg (by simp [hu]), if_neg (by omega), if_neg (by omega), if_neg h1, if_neg h2]

/-- All that a write can do. -/
theorem write_cases {a : Addr} {v : Byte} {t : State} (h : write a v s = .ok t) :
    (a.toNat < 0x2000 ∧ t = s.ramPut a v) ∨
    (0x2000 ≤ a.toNat ∧ a.toNat < 0x4000 ∧ t = s.setPpu (Ppu.writeReg s.cart s.ppu (ppuRegister a) v)) ∨
    (a.toNat = 0x4014 ∧ oamDma v s = .ok t) ∨
    (a.toNat = 0x4016 ∧ t = s.setCtl (s.ctl.afterStrobe v)) ∨
    (0x4000 ≤ a.toNat ∧ t = s) := by
  unfold write at h
  split_ifs at h with h0 h1 h2 h3 h4
  · exact .inl ⟨h1, (Except.ok.inj h).symm⟩
  · exact .inr (.inl ⟨by omega, h2, (Except.ok.inj h).symm⟩)
  · exact .inr (.inr (.inl ⟨h3, h⟩))
  · exact .inr (.inr (.inr (.inl ⟨h4, (Except.ok.inj h).symm⟩)))
  · exact .inr (.inr (.inr (.inr ⟨by omega, (Except.ok.inj h).symm⟩)))

/-! ### OAM DMA -/

/-- A DMA changes the picture unit, the controller and the count of draws, and nothing else of the loop's state. -/
theorem oamDmaLoop_changes (d : Byte) (n : Nat) {s t : State} (h : oamDmaLoop d n s = .ok t) :
    ∃ u c k, t = ((s.setPpu u).setCtl c).setDraws k := by
  induction n generalizing s with
  | zero => exact ⟨s.ppu, s.ctl, s.draws, (Except.ok.inj h).symm⟩
  | succ n ih =>
    simp only [oamDmaLoop] at h
    split at h
    · cases h
    · rename_i b s1 hr
      obtain ⟨-, hb⟩ := (read_ok_iff _ _ _).1 hr
      obtain ⟨u1, c1, k1, h1, -, -⟩ := busRead_changes s (hiLo d (BitVec.ofNat 8 (255 - n)))
      rw [hb] at h1
      subst h1
      obtain ⟨u, c, k, rfl⟩ := ih h
      exact ⟨u, c, k, by apply State.eq_of_fields <;> simp⟩

theorem oamDma_changes (d : Byte) {s t : State} (h : oamDma d s = .ok t) :
    ∃ u c k, t = (((s.setPpu u).setCtl c).setDraws k).setExtraCycles (s.extraCycles + s.params.oamDmaCycles) := by
  unfold oamDma at h
  split at h
  · cases h
  · rename_i s1 h1
    have h2 := Except.ok.inj h
    obtain ⟨u, c, k, h3⟩ := oamDmaLoop_changes d 256 h1
    refine ⟨u, c, k, ?_⟩
    rw [← h2, h3]
    simp only [State.setDraws_extraCycles, State.setCtl_extraCycles, State.setPpu_extraCycles, State.setDraws_params,
      State.setCtl_params, State.setPpu_params]

/-- All a write can change: RAM, the picture unit, the controller, the count of draws and the extra cycles. -/
theorem write_changes {a : Addr} {v : Byte} {t : State} (h : write a v s = .ok t) :
    ∃ r u c k e, t = ((((s.setRam r).setPpu u).setCtl c).setDraws k).setExtraCycles e := by
  rcases write_cases s h with ⟨-, rfl⟩ | ⟨-, -, rfl⟩ | ⟨-, h⟩ | ⟨-, rfl⟩ | ⟨-, rfl⟩
  · exact ⟨Memory.write 0 s.ram (ramIndex a) v, s.ppu, s.ctl, s.draws, s.extraCycles, rfl⟩
  · exact ⟨s.ram, Ppu.writeReg s.cart s.ppu (ppuRegister a) v, s.ctl, s.draws, s.extraCycles, rfl⟩
  · obtain ⟨u, c, k, rfl⟩ := oamDma_changes v h
    exact ⟨s.ram, u, c, k, s.extraCycles + s.params.oamDmaCycles, rfl⟩
  · exact ⟨s.ram, s.ppu, s.ctl.afterStrobe v, s.draws, s.extraCycles, rfl⟩
  · exact ⟨t.ram, t.ppu, t.ctl, t.draws, t.extraCycles, by apply State.eq_of_fields <;> simp⟩

/-- Outside RAM a write leaves RAM alone. -/
theorem write_ram_unchanged {a : Addr} {v : Byte} {t : State} (h : write a v s = .ok t) (ha : 0x2000 ≤ a.toNat) :
    t.ram = s.ram := by
  rcases write_cases s h with ⟨hl, -⟩ | ⟨-, -, rfl⟩ | ⟨-, h⟩ | ⟨-, rfl⟩ | ⟨-, rfl⟩
  · omega
  · rfl
  · obtain ⟨u, c, k, rfl⟩ := oamDma_changes v h; rfl
  · rfl
  · rfl

theorem oamDmaLoop_ok_of_page {d : Byte} (hd : dmaFaults d = false) (n : Nat) (s : State) :
    ∃ t, oamDmaLoop d n s = .ok t := by
  induction n generalizing s with
  | zero => exact ⟨s, rfl⟩
  | succ n ih =>
    have hm : unmapped (hiLo d (BitVec.ofNat 8 (255 - n))) = false := by
      rw [Bool.eq_false_iff]
      intro hu
      rw [unmapped_iff, toNat_hiLo] at hu
      have hd' : d ≠ 0x40#8 := by simpa [dmaFaults] using hd
      have h1 := (BitVec.ofNat 8 (255 - n)).isLt
      exact hd' (BitVec.eq_of_toNat_eq (by simp; omega))
    simp only [oamDmaLoop, read_of_mapped s hm]
    exact ih _

theorem oamDmaLoop_faults (n : Nat) (hn : 232 ≤ n) (hn' : n ≤ 256) (s : State) :
    oamDmaLoop 0x40#8 n s = .error (.unmappedAddress 0x4018#16) := by
  induction n, hn using Nat.le_induction generalizing s with
  | base => rfl
  | succ n hn ih =>
    have hm : unmapped (hiLo 0x40#8 (BitVec.ofNat 8 (255 - n))) = false := by
      apply unmapped_false_of_lt
      rw [toNat_hiLo]
      have : (BitVec.ofNat 8 (255 - n)).toNat = 255 - n := by simp; omega
      rw [this]; simp; omega
    simp only [oamDmaLoop, read_of_mapped s hm]
    exact ih (by omega) _

/-- A store completes unless it is to an unmapped address or starts a DMA from page 0x40. -/
theorem write_ok_of_storeFaults {a : Addr} {v : Byte} (h : storeFaults a v = false) : ∃ t, write a v s = .ok t := by
  simp only [storeFaults, Bool.or_eq_false_iff] at h
  unfold write
  split_ifs with h0 h1 h2 h3 h4
  · simp [h0] at h
  · exact ⟨_, rfl⟩
  · exact ⟨_, rfl⟩
  · have ha : a = 0x4014#16 := BitVec.eq_of_toNat_eq (by simpa using h3)
    subst ha
    obtain ⟨t, ht⟩ := oamDmaLoop_ok_of_page (by simpa using h.2) 256 s
    exact ⟨_, by simp [oamDma, ht]; rfl⟩
  · exact ⟨_, rfl⟩
  · exact ⟨_, rfl⟩

/-- The fault of a store that does not complete. -/
theorem write_error_of_storeFaults {a : Addr} {v : Byte} (h : storeFaults a v = true) :
    write a v s = .error (.unmappedAddress (if unmapped a then a else 0x4018#16)) := by
  simp only [storeFaults, Bool.or_eq_true, Bool.and_eq_true] at h
  by_cases hu : unmapped a = true
  · simp [write, hu]
  · obtain ⟨ha, hd⟩ := h.resolve_left hu
    have ha' : a = 0x4014#16 := by simpa using ha
    have hd' : v = 0x40#8 := by simpa [dmaFaults] using hd
    subst ha' hd'
    rw [write_dma s _ (by decide), oamDma, oamDmaLoop_faults 256 (by omega) (by omega)]
    simp [hu]

/-! ### The stack and the vectors are the bus's (log 10) -/

/-- A push is a bus write at `0x0100 + SP`, then SP goes down (R206). -/
theorem push_is_write (b : Byte) : write (stackAddr s.sp) b s = .ok (s.ramPut (stackAddr s.sp) b) := by
  have := s.sp.isLt
  exact write_ram s b (by rw [toNat_stackAddr]; omega)

/-- A pull is a bus read at `0x0100 + SP` after SP went up (R206). -/
theorem pull_is_read : read (stackAddr (pull s).sp) (pull s) = .ok (pulled s, pull s) := by
  have := (pull s).sp.isLt
  have h : (stackAddr (pull s).sp).toNat < 0x2000 := by rw [toNat_stackAddr]; omega
  rw [read_of_mapped _ (unmapped_false_of_lt (by omega)), busRead_ram _ h]
  rfl

/-- A vector's word is two bus reads, low byte first (R15, R145). -/
theorem vectorAt_is_read16 {a : Addr} (h : 0x8000 ≤ a.toNat) (h' : a.toNat < 0xFFFF) :
    ∃ lo hi, read a s = .ok (lo, s) ∧ read (a + 1) s = .ok (hi, s) ∧ s.vectorAt a = hiLo hi lo := by
  have h1 : (a + 1).toNat = a.toNat + 1 := by simp [BitVec.toNat_add]; omega
  refine ⟨s.prgAt a, s.prgAt (a + 1), ?_, ?_, rfl⟩
  · rw [read_of_mapped _ (unmapped_false_of_gt (by omega)), busRead_prg _ h]
  · rw [read_of_mapped _ (unmapped_false_of_gt (by omega)), busRead_prg _ (by omega)]

/-- A zero-page pointer's bytes are bus reads with no side effect (R201, R202). -/
theorem zp_is_read (b : Byte) : read (zpAddr b) s = .ok (s.ramAt (zpAddr b), s) := by
  have := b.isLt
  have h : (zpAddr b).toNat < 0x2000 := by rw [toNat_zpAddr]; omega
  rw [read_of_mapped _ (unmapped_false_of_lt (by omega)), busRead_ram _ h]

/-! ### What the stack operations and the interrupt operations change -/

@[simp] theorem push_ram (b : Byte) : (push b s).ram = Memory.write 0 s.ram (0x100 + s.sp.toNat) b := by
  simp [push, State.ramPut]

theorem push_changes (b : Byte) : ∃ r, push b s = (s.setRam r).setSp (s.sp - 1) := ⟨_, rfl⟩

theorem push16_changes (w : Addr) : ∃ r, push16 w s = (s.setRam r).setSp (s.sp - 1 - 1) := ⟨_, rfl⟩

/-- An interrupt entry changes RAM, SP, I and PC, and nothing else (60_exceptions.md rule R344). -/
theorem takeInterrupt_changes (b : Bool) (v : Addr) :
    ∃ r, takeInterrupt b v s =
      (((s.setRam r).setSp (s.sp - 1 - 1 - 1)).setP { s.p with i := true }).setPc (s.vectorAt v) := ⟨_, rfl⟩

/-- Returning from an interrupt changes SP, the flags and PC, and nothing else. -/
theorem returnFromInterrupt_changes :
    returnFromInterrupt s =
      ((s.setSp (s.sp + 1 + 1 + 1)).setP (Flags.unpack (pulled s))).setPc (pulled16 (pull s)) := rfl

/-! ### Peek -/

/-- A write to RAM changes the four mirrors of its byte and no other byte of plain memory (20_memory.md rule R103). -/
theorem peek_ramPut {a b : Addr} (v : Byte) (h : ramIndex b ≠ ramIndex a) : (s.ramPut a v).peek b = s.peek b := by
  unfold State.peek
  simp only [State.ramAt, State.ramPut, State.setRam_ram, State.prgAt, State.setRam_cart]
  rw [Memory.read_write_other _ _ _ _ _ h]

theorem peek_ramPut_self {a : Addr} (v : Byte) (h : a.toNat < 0x2000) : (s.ramPut a v).peek a = some v := by
  simp [State.peek, h, State.ramAt, State.ramPut]

/-- What plain memory holds depends on RAM and the cartridge alone. -/
theorem peek_congr {s t : State} (hr : t.ram = s.ram) (hc : t.cart = s.cart) (a : Addr) : t.peek a = s.peek a := by
  simp [State.peek, State.ramAt, State.prgAt, hr, hc]

end Sys2Proof.Machine
end

