-- ==== Sys2Proof/Laws/Operands.lean ====
section
/-! SUPPORT. The operand forms and the instruction classes: everything each can do, once. -/

namespace Sys2Proof.Machine

variable (s : State)

/-! ### The start and the end of an instruction -/

theorem startInstr_eq (n : Nat) : startInstr n s = { s with pc := s.pc + BitVec.ofNat 16 n, extraCycles := 0 } := rfl

theorem finishInstr_eq (n : Nat) : finishInstr n s = { s with cycles := n + s.extraCycles } := rfl

@[simp] theorem startInstr_a (n : Nat) : (startInstr n s).a = s.a := rfl
@[simp] theorem startInstr_x (n : Nat) : (startInstr n s).x = s.x := rfl
@[simp] theorem startInstr_y (n : Nat) : (startInstr n s).y = s.y := rfl
@[simp] theorem startInstr_sp (n : Nat) : (startInstr n s).sp = s.sp := rfl
@[simp] theorem startInstr_p (n : Nat) : (startInstr n s).p = s.p := rfl
@[simp] theorem startInstr_ram (n : Nat) : (startInstr n s).ram = s.ram := rfl
@[simp] theorem startInstr_ppu (n : Nat) : (startInstr n s).ppu = s.ppu := rfl
@[simp] theorem startInstr_ctl (n : Nat) : (startInstr n s).ctl = s.ctl := rfl
@[simp] theorem startInstr_cart (n : Nat) : (startInstr n s).cart = s.cart := rfl
@[simp] theorem startInstr_params (n : Nat) : (startInstr n s).params = s.params := rfl
@[simp] theorem startInstr_draws (n : Nat) : (startInstr n s).draws = s.draws := rfl
@[simp] theorem startInstr_extraCycles (n : Nat) : (startInstr n s).extraCycles = 0 := rfl
@[simp] theorem startInstr_pc (n : Nat) : (startInstr n s).pc = s.pc + BitVec.ofNat 16 n := rfl

/-! ### Operand forms depend on RAM and the index registers alone -/

@[simp] theorem zpPointer_startInstr (n : Nat) (b : Byte) : (startInstr n s).zpPointer b = s.zpPointer b := rfl

@[simp] theorem base_startInstr (n : Nat) (m : MemOperand) : m.base (startInstr n s) = m.base s := by cases m <;> rfl

@[simp] theorem ea_startInstr (n : Nat) (m : MemOperand) : m.ea (startInstr n s) = m.ea s := by cases m <;> rfl

@[simp] theorem crossed_startInstr (n : Nat) (m : MemOperand) : m.crossed (startInstr n s) = m.crossed s := by
  cases m <;> rfl

@[simp] theorem penalty_startInstr (n : Nat) (o : Operand) : o.penalty (startInstr n s) = o.penalty s := by
  cases o with
  | imm b => rfl
  | mem m => simp [Operand.penalty]

/-! ### The bus does not look at PC, the flags or the counts of the step -/

/-- A bus read does not depend on PC or on the extra cycles, and carries them along. -/
theorem busRead_startInstr (n : Nat) (a : Addr) :
    busRead a (startInstr n s) =
      ((busRead a s).1, { (busRead a s).2 with pc := s.pc + BitVec.ofNat 16 n, extraCycles := 0 }) := by
  unfold busRead
  split_ifs
  · rfl
  · unfold readPpu
    split
    · rfl
    · rfl
    · cases hp : isPalette s.ppu.dataAddr <;> simp only [startInstr_ppu, hp] <;> rfl
    · rfl
  · rfl
  · rfl
  · rfl

/-- A bus read leaves every CPU register, the flags, RAM and the step's counts alone. -/
theorem busRead_frame (a : Addr) :
    (busRead a s).2 = { s with
      ppu := (busRead a s).2.ppu, ctl := (busRead a s).2.ctl, draws := (busRead a s).2.draws } := by
  obtain ⟨u, c, n, h, -, -⟩ := busRead_changes s a
  rw [h]
  rfl

/-- A bus read does not depend on PC. -/
theorem busRead_setPc (a : Addr) (pc : Addr) :
    busRead a (s.setPc pc) = ((busRead a s).1, (busRead a s).2.setPc pc) := by
  unfold busRead
  split_ifs
  · rfl
  · unfold readPpu
    split
    · rfl
    · rfl
    · cases hp : isPalette s.ppu.dataAddr <;> simp only [State.setPc_ppu, hp] <;> rfl
    · rfl
  · rfl
  · rfl
  · rfl

/-- What `write` is given of PC it gives back. -/
theorem oamDmaLoop_setPc (d : Byte) (n : Nat) (pc : Addr) (s : State) :
    oamDmaLoop d n (s.setPc pc) = (oamDmaLoop d n s).map (fun t => t.setPc pc) := by
  induction n generalizing s with
  | zero => rfl
  | succ n ih =>
    simp only [oamDmaLoop]
    unfold read
    split_ifs
    · rfl
    · rw [busRead_setPc]
      generalize busRead (hiLo d (BitVec.ofNat 8 (255 - n))) s = r
      obtain ⟨b, s1⟩ := r
      exact ih (s1.setPpu { s1.ppu with
        oam := Memory.write 0 s1.ppu.oam (s1.ppu.oamAddr + BitVec.ofNat 8 (255 - n)).toNat b })

theorem write_setPc (a : Addr) (v : Byte) (pc : Addr) :
    write a v (s.setPc pc) = (write a v s).map (fun t => t.setPc pc) := by
  unfold write
  split_ifs <;> try rfl
  unfold oamDma
  rw [oamDmaLoop_setPc]
  cases oamDmaLoop v 256 s <;> rfl

/-- A write leaves every CPU register and the flags alone. -/
theorem write_frame {a : Addr} {v : Byte} {t : State} (h : write a v s = .ok t) :
    t = { s with ram := t.ram, ppu := t.ppu, ctl := t.ctl, draws := t.draws, extraCycles := t.extraCycles } := by
  obtain ⟨r, u, c, k, e, rfl⟩ := write_changes s h
  rfl

/-! ### The operand byte -/

/-- The operand byte comes of one read at `ea`, or is the immediate byte (R194, R205). -/
theorem operandByte_imm (b : Byte) : operandByte (.imm b) s = .ok (b, s) := rfl

theorem operandByte_mem (m : MemOperand) (h : unmapped (m.ea s) = false) :
    operandByte (.mem m) s = .ok (busRead (m.ea s) s) := read_of_mapped s h

/-! ### The classes -/

/-- A read-class instruction with an immediate operand. -/
theorem readInstr_imm (b : Byte) (effect : Byte → State → State) :
    readInstr (.imm b) effect s = .next (finishInstr 2 (effect b (startInstr 2 s))) := rfl

/-- A read-class instruction whose operand is mapped completes. -/
theorem readInstr_mem (m : MemOperand) (effect : Byte → State → State) (h : unmapped (m.ea s) = false) :
    readInstr (.mem m) effect s =
      .next (finishInstr ((Operand.mem m).readCycles + (Operand.mem m).penalty s)
        (effect (busRead (m.ea s) s).1
          { (busRead (m.ea s) s).2 with pc := s.pc + BitVec.ofNat 16 m.length, extraCycles := 0 })) := by
  unfold readInstr
  simp only [Operand.length, operandByte, ea_startInstr, read_of_mapped _ h, busRead_startInstr, penalty_startInstr]

/-- A read-class instruction whose operand is not mapped faults. -/
theorem readInstr_fault (m : MemOperand) (effect : Byte → State → State) (h : unmapped (m.ea s) = true) :
    readInstr (.mem m) effect s = .fault (.unmappedAddress (m.ea s)) := by
  unfold readInstr
  simp only [Operand.length, operandByte, ea_startInstr, read, h, if_true]

/-- A write-class instruction does the write, and faults exactly when the write does. -/
theorem writeInstr_eq (m : MemOperand) (v : Byte) :
    writeInstr m v s =
      match write (m.ea s) v (startInstr m.length s) with
      | .error e => .fault e
      | .ok t => .next (finishInstr m.writeCycles t) := by
  unfold writeInstr
  simp only [ea_startInstr]
  all_goals rfl

/-- A read-modify-write instruction on mapped memory: the read, then the write. -/
theorem rmwInstr_eq (m : MemOperand) (op : Flags → Byte → RmwResult) (h : unmapped (m.ea s) = false) :
    rmwInstr m op s =
      match write (m.ea s) (op s.p (busRead (m.ea s) s).1).value
          { (busRead (m.ea s) s).2 with pc := s.pc + BitVec.ofNat 16 m.length, extraCycles := 0 } with
      | .error e => .fault e
      | .ok t => .next (finishInstr m.rmwCycles (t.setP (op s.p (busRead (m.ea s) s).1).flags)) := by
  have hp : (busRead (m.ea s) s).2.p = s.p := by rw [busRead_frame]
  unfold rmwInstr
  simp only [ea_startInstr, read_of_mapped _ h, busRead_startInstr, hp]
  all_goals rfl

theorem rmwInstr_fault (m : MemOperand) (op : Flags → Byte → RmwResult) (h : unmapped (m.ea s) = true) :
    rmwInstr m op s = .fault (.unmappedAddress (m.ea s)) := by
  unfold rmwInstr
  simp only [ea_startInstr, read, h, if_true]

theorem accInstr_eq (op : Flags → Byte → RmwResult) :
    accInstr op s = .next { s with
      a := (op s.p s.a).value, p := (op s.p s.a).flags, pc := s.pc + 1, extraCycles := 0, cycles := 2 } := rfl

/-- All a read-class instruction can do when it answers a next state. -/
theorem readInstr_next {o : Operand} {effect : Byte → State → State} {t : State}
    (h : readInstr o effect s = .next t) :
    ∃ m s1 n, t = finishInstr n (effect m s1) ∧
      (s1 = startInstr o.length s ∨
        ∃ q, o = .mem q ∧ s1 = { (busRead (q.ea s) s).2 with
          pc := s.pc + BitVec.ofNat 16 q.length, extraCycles := 0 }) := by
  cases o with
  | imm b => exact ⟨b, _, _, (Host.Outcome.next.inj h).symm, .inl rfl⟩
  | mem q =>
    by_cases hu : unmapped (q.ea s) = true
    · rw [readInstr_fault s q effect hu] at h; cases h
    · rw [readInstr_mem s q effect (by simpa using hu)] at h
      exact ⟨_, _, _, (Host.Outcome.next.inj h).symm, .inr ⟨q, rfl, rfl⟩⟩

/-- All a write-class instruction can do when it answers a next state. -/
theorem writeInstr_next {m : MemOperand} {v : Byte} {t : State} (h : writeInstr m v s = .next t) :
    ∃ s1, write (m.ea s) v (startInstr m.length s) = .ok s1 ∧ t = finishInstr m.writeCycles s1 := by
  rw [writeInstr_eq] at h
  split at h
  · cases h
  · rename_i s1 hw
    exact ⟨s1, hw, (Host.Outcome.next.inj h).symm⟩

/-- All a read-modify-write instruction can do when it answers a next state. -/
theorem rmwInstr_next {m : MemOperand} {op : Flags → Byte → RmwResult} {t : State} (h : rmwInstr m op s = .next t) :
    unmapped (m.ea s) = false ∧
    ∃ s1, write (m.ea s) (op s.p (busRead (m.ea s) s).1).value
        { (busRead (m.ea s) s).2 with pc := s.pc + BitVec.ofNat 16 m.length, extraCycles := 0 } = .ok s1 ∧
      t = finishInstr m.rmwCycles (s1.setP (op s.p (busRead (m.ea s) s).1).flags) := by
  by_cases hu : unmapped (m.ea s) = true
  · rw [rmwInstr_fault s m op hu] at h; cases h
  · have hu' : unmapped (m.ea s) = false := by simpa using hu
    refine ⟨hu', ?_⟩
    rw [rmwInstr_eq s m op hu'] at h
    split at h
    · cases h
    · rename_i s1 hw
      exact ⟨s1, hw, (Host.Outcome.next.inj h).symm⟩

/-- All a branch can do: PC and the count (R280). -/
theorem branchInstr_eq (cond : Bool) (off : Byte) :
    branchInstr cond off s = .next { s with
      pc := if cond then s.pc + 2 + sext16 off else s.pc + 2
      extraCycles := 0
      cycles := if cond then (if hiByte (s.pc + 2) = hiByte (s.pc + 2 + sext16 off) then 3 else 4) else 2 } := by
  cases cond <;> rfl

end Sys2Proof.Machine
end

