-- ==== Sys2Proof/Laws/Picture.lean ====
section
/-! SUPPORT. The PPU address space and the register handlers: where they read and write, and that each keeps the picture
unit's invariant. -/

namespace Sys2Proof.Machine

theorem ntIndex_lt (m : Mirroring) (a : PpuAddr) : ntIndex m a < 0x800 := by
  cases m <;> simp only [ntIndex] <;> omega

theorem palIndex_lt (a : PpuAddr) : palIndex a < 0x20 := by
  unfold palIndex
  simp only
  split_ifs <;> omega

/-- `pal_index` never gives one of the four mirrored places (20_memory.md rule R135). -/
theorem palIndex_not_mirror (a : PpuAddr) :
    palIndex a ≠ 0x10 ∧ palIndex a ≠ 0x14 ∧ palIndex a ≠ 0x18 ∧ palIndex a ≠ 0x1C := by
  unfold palIndex
  simp only
  split_ifs <;> omega

/-! ### The three regions of the PPU space -/

section Regions

variable (c : Cartridge) (u : Ppu) (open7 v : Byte) {a : PpuAddr}

theorem ppuRead_chr (h : a.toNat < 0x2000) : ppuRead c u open7 a = Memory.read 0 c.chr a.toNat := by
  unfold ppuRead; rw [if_pos h]

theorem ppuRead_nametable (h : 0x2000 ≤ a.toNat) (h' : a.toNat < 0x3F00) :
    ppuRead c u open7 a = Memory.read 0 u.vram (ntIndex c.mirroring a) := by
  unfold ppuRead; rw [if_neg (by omega), if_pos h']

theorem ppuRead_palette (h : 0x3F00 ≤ a.toNat) :
    ppuRead c u open7 a = (Memory.read 0 u.palette (palIndex a)).setWidth 8 ||| (open7 &&& 0xC0#8) := by
  unfold ppuRead; rw [if_neg (by omega), if_neg (by omega)]; rfl

theorem ppuWrite_chr (h : a.toNat < 0x2000) : ppuWrite c u a v = u := by unfold ppuWrite; rw [if_pos h]

theorem ppuWrite_nametable (h : 0x2000 ≤ a.toNat) (h' : a.toNat < 0x3F00) :
    ppuWrite c u a v = { u with vram := Memory.write 0 u.vram (ntIndex c.mirroring a) v } := by
  unfold ppuWrite; rw [if_neg (by omega), if_pos h']

theorem ppuWrite_palette (h : 0x3F00 ≤ a.toNat) :
    ppuWrite c u a v = { u with palette := Memory.write 0 u.palette (palIndex a) (v.setWidth 6) } := by
  unfold ppuWrite; rw [if_neg (by omega), if_neg (by omega)]

end Regions

theorem bytesWf_write {n : Nat} {m : Memory Byte} {k : Nat} (v : Byte) (hk : k < n) (h : bytesWf n m = true) :
    bytesWf n (Memory.write 0 m k v) = true := by
  simp only [bytesWf, Bool.and_eq_true] at h ⊢
  exact ⟨Memory.write_wf _ _ _ _ h.1, Memory.write_below _ _ _ _ _ hk h.2⟩

theorem paletteWf_write {p : Memory Colour} (a : PpuAddr) (v : Colour) (h : paletteWf p = true) :
    paletteWf (Memory.write 0 p (palIndex a) v) = true := by
  simp only [paletteWf, Bool.and_eq_true] at h ⊢
  exact ⟨Memory.write_wf _ _ _ _ h.1, Memory.write_below _ _ _ _ _ (palIndex_lt a) h.2⟩

theorem Frame.setPixel_wf {f : Frame} {y x : Nat} (p : Pixel) (hy : y < 240) (hx : x < 256) (h : Frame.wf f = true) :
    Frame.wf (Frame.setPixel f y x p) = true := by
  simp only [Frame.wf, Bool.and_eq_true] at h ⊢
  have hrow : Memory.wf 0 (Memory.read [] f y) = true ∧ Memory.below 256 (Memory.read [] f y) = true := by
    rcases Memory.read_mem [] f y with h' | h'
    · rw [h']; exact ⟨rfl, rfl⟩
    · simpa using (List.all_eq_true.1 h.2) _ h'
  refine ⟨⟨Memory.write_wf _ _ _ _ h.1.1, Memory.write_below _ _ _ _ _ hy h.1.2⟩, ?_⟩
  refine Memory.write_all _ _ _ _ _ (fun _ => ?_) h.2
  simp only [Bool.and_eq_true]
  exact ⟨Memory.write_wf _ _ _ _ hrow.1, Memory.write_below _ _ _ _ _ hx hrow.2⟩

/-- A pixel written is the pixel read back. -/
theorem Frame.pixelAt_setPixel_self (f : Frame) (y x : Nat) (p : Pixel) : (f.setPixel y x p).pixelAt y x = p := by
  simp [Frame.pixelAt, Frame.setPixel]

/-- A pixel written leaves every other pixel alone. -/
theorem Frame.pixelAt_setPixel_other (f : Frame) (y x y' x' : Nat) (p : Pixel) (h : y' ≠ y ∨ x' ≠ x) :
    (f.setPixel y x p).pixelAt y' x' = f.pixelAt y' x' := by
  unfold Frame.pixelAt Frame.setPixel
  by_cases hy : y' = y
  · subst hy
    rw [Memory.read_write_self, Memory.read_write_other _ _ _ _ _ (h.resolve_left (by simp))]
  · rw [Memory.read_write_other _ _ _ _ _ hy]

theorem ppuWrite_inv {u : Ppu} (c : Cartridge) (a : PpuAddr) (v : Byte) (h : u.Inv) : (ppuWrite c u a v).Inv := by
  unfold ppuWrite
  split_ifs
  · exact h
  · exact { h with vram := bytesWf_write v (ntIndex_lt _ _) h.vram }
  · exact { h with palette := paletteWf_write a _ h.palette }

theorem bumpV_inv {u : Ppu} (h : u.Inv) : u.bumpV.Inv := { h with }

/-- Every register write keeps the invariant. -/
theorem writeReg_inv {u : Ppu} (c : Cartridge) (n : Nat) (d : Byte) (h : u.Inv) : (Ppu.writeReg c u n d).Inv := by
  unfold Ppu.writeReg
  split
  · exact { h with }
  · exact { h with }
  · exact { h with }
  · exact { h with oam := bytesWf_write d u.oamAddr.isLt h.oam }
  · unfold Ppu.writeScroll; split_ifs <;> exact { h with }
  · unfold Ppu.writeAddr; split_ifs <;> exact { h with }
  · exact bumpV_inv (ppuWrite_inv c _ d h)
  · exact h

theorem afterStatusRead_inv {u : Ppu} (h : u.Inv) : u.afterStatusRead.Inv := { h with }

theorem afterDataRead_inv {u : Ppu} (c : Cartridge) (h : u.Inv) : (Ppu.afterDataRead c u).Inv :=
  bumpV_inv (u := { u with readBuffer := Ppu.refillByte c u }) { h with }

/-- What rendering takes from the palette is a PPU read with the open bits masked away, whatever they are
(60_exceptions.md rules R378, R385). -/
theorem paletteAt_eq_ppuRead (c : Cartridge) (u : Ppu) (open7 : Byte) (a : PpuAddr) (h : 0x3F00 ≤ a.toNat) :
    (u.paletteAt a).setWidth 8 = ppuRead c u open7 a &&& 0x3F#8 := by
  unfold ppuRead
  rw [if_neg (by omega), if_neg (by omega)]
  ext i hi
  have : i = 0 ∨ i = 1 ∨ i = 2 ∨ i = 3 ∨ i = 4 ∨ i = 5 ∨ i = 6 ∨ i = 7 := by omega
  rcases this with rfl | rfl | rfl | rfl | rfl | rfl | rfl | rfl <;> simp

end Sys2Proof.Machine
end

