-- ==== Sys2Proof/Laws/Exec.lean ====
section
/-! SUPPORT. What an instruction can do, whichever it is: each shared operation keeps `CpuStep`, so every meaning does. -/

namespace Sys2Proof.Machine

/-- What the CPU never changes of the picture unit: its position, its flags but for vblank, its pipeline, its frames
(60_exceptions.md rules R360, R386, R393). -/
structure Ppu.CpuStep (u q : Ppu) : Prop where
  sprite0Hit : q.sprite0Hit = u.sprite0Hit
  spriteOverflow : q.spriteOverflow = u.spriteOverflow
  scanline : q.scanline = u.scanline
  dot : q.dot = u.dot
  oddFrame : q.oddFrame = u.oddFrame
  nmiPending : q.nmiPending = u.nmiPending
  frameComplete : q.frameComplete = u.frameComplete
  ntLatch : q.ntLatch = u.ntLatch
  atLatch : q.atLatch = u.atLatch
  ptLoLatch : q.ptLoLatch = u.ptLoLatch
  ptHiLatch : q.ptHiLatch = u.ptHiLatch
  shPatLo : q.shPatLo = u.shPatLo
  shPatHi : q.shPatHi = u.shPatHi
  shAttLo : q.shAttLo = u.shAttLo
  shAttHi : q.shAttHi = u.shAttHi
  frame : q.frame = u.frame
  presented : q.presented = u.presented
  vblank : q.vblank = true → u.vblank = true
  inv : u.Inv → q.Inv

theorem Ppu.CpuStep.refl (u : Ppu) : u.CpuStep u :=
  ⟨rfl, rfl, rfl, rfl, rfl, rfl, rfl, rfl, rfl, rfl, rfl, rfl, rfl, rfl, rfl, rfl, rfl, id, id⟩

theorem Ppu.CpuStep.trans {u q z : Ppu} (h : u.CpuStep q) (k : q.CpuStep z) : u.CpuStep z :=
  ⟨k.sprite0Hit.trans h.sprite0Hit, k.spriteOverflow.trans h.spriteOverflow, k.scanline.trans h.scanline,
    k.dot.trans h.dot, k.oddFrame.trans h.oddFrame, k.nmiPending.trans h.nmiPending,
    k.frameComplete.trans h.frameComplete, k.ntLatch.trans h.ntLatch, k.atLatch.trans h.atLatch,
    k.ptLoLatch.trans h.ptLoLatch, k.ptHiLatch.trans h.ptHiLatch, k.shPatLo.trans h.shPatLo, k.shPatHi.trans h.shPatHi,
    k.shAttLo.trans h.shAttLo, k.shAttHi.trans h.shAttHi, k.frame.trans h.frame, k.presented.trans h.presented,
    fun v => h.vblank (k.vblank v), fun i => k.inv (h.inv i)⟩

theorem writeScroll_cpuStep (u : Ppu) (d : Byte) : u.CpuStep (u.writeScroll d) := by
  unfold Ppu.writeScroll
  split_ifs <;>
    exact ⟨rfl, rfl, rfl, rfl, rfl, rfl, rfl, rfl, rfl, rfl, rfl, rfl, rfl, rfl, rfl, rfl, rfl, id, fun i => { i with }⟩

theorem writeAddr_cpuStep (u : Ppu) (d : Byte) : u.CpuStep (u.writeAddr d) := by
  unfold Ppu.writeAddr
  split_ifs <;>
    exact ⟨rfl, rfl, rfl, rfl, rfl, rfl, rfl, rfl, rfl, rfl, rfl, rfl, rfl, rfl, rfl, rfl, rfl, id, fun i => { i with }⟩

theorem writeData_cpuStep (c : Cartridge) (u : Ppu) (d : Byte) : u.CpuStep (Ppu.writeData c u d) := by
  have hi : u.Inv → (Ppu.writeData c u d).Inv := fun i => bumpV_inv (ppuWrite_inv c _ d i)
  unfold Ppu.writeData ppuWrite at *
  split_ifs at * <;>
    exact ⟨rfl, rfl, rfl, rfl, rfl, rfl, rfl, rfl, rfl, rfl, rfl, rfl, rfl, rfl, rfl, rfl, rfl, id, hi⟩

theorem writeReg_cpuStep (c : Cartridge) (u : Ppu) (n : Nat) (d : Byte) : u.CpuStep (Ppu.writeReg c u n d) := by
  have hi := writeReg_inv (u := u) c n d
  unfold Ppu.writeReg at *
  split at *
  · exact ⟨rfl, rfl, rfl, rfl, rfl, rfl, rfl, rfl, rfl, rfl, rfl, rfl, rfl, rfl, rfl, rfl, rfl, id, hi⟩
  · exact ⟨rfl, rfl, rfl, rfl, rfl, rfl, rfl, rfl, rfl, rfl, rfl, rfl, rfl, rfl, rfl, rfl, rfl, id, hi⟩
  · exact ⟨rfl, rfl, rfl, rfl, rfl, rfl, rfl, rfl, rfl, rfl, rfl, rfl, rfl, rfl, rfl, rfl, rfl, id, hi⟩
  · exact ⟨rfl, rfl, rfl, rfl, rfl, rfl, rfl, rfl, rfl, rfl, rfl, rfl, rfl, rfl, rfl, rfl, rfl, id, hi⟩
  · exact writeScroll_cpuStep u d
  · exact writeAddr_cpuStep u d
  · exact writeData_cpuStep c u d
  · exact .refl u

theorem afterStatusRead_cpuStep (u : Ppu) : u.CpuStep u.afterStatusRead :=
  ⟨rfl, rfl, rfl, rfl, rfl, rfl, rfl, rfl, rfl, rfl, rfl, rfl, rfl, rfl, rfl, rfl, rfl,
    fun h => absurd h (by simp [Ppu.afterStatusRead]), afterStatusRead_inv⟩

theorem afterDataRead_cpuStep (c : Cartridge) (u : Ppu) : u.CpuStep (Ppu.afterDataRead c u) :=
  ⟨rfl, rfl, rfl, rfl, rfl, rfl, rfl, rfl, rfl, rfl, rfl, rfl, rfl, rfl, rfl, rfl, rfl, id, afterDataRead_inv c⟩

/-- What the CPU's part of a step keeps, whatever it does. -/
structure CpuStep (s t : State) : Prop where
  nmiRequest : t.nmiRequest = s.nmiRequest
  cyclesTotal : t.cyclesTotal = s.cyclesTotal
  irqLine : t.irqLine = s.irqLine
  frames : t.frames = s.frames
  cart : t.cart = s.cart
  params : t.params = s.params
  buttons : t.ctl.buttons = s.ctl.buttons
  status : t.status = s.status ∨ t.status = .halted
  ram : bytesWf 0x800 s.ram = true → bytesWf 0x800 t.ram = true
  latch : (s.ctl.strobe = true → s.ctl.shift = s.ctl.buttons) → (t.ctl.strobe = true → t.ctl.shift = t.ctl.buttons)
  ppu : s.ppu.CpuStep t.ppu

theorem CpuStep.refl (s : State) : CpuStep s s :=
  ⟨rfl, rfl, rfl, rfl, rfl, rfl, rfl, .inl rfl, id, id, .refl _⟩

theorem CpuStep.trans {s t w : State} (h : CpuStep s t) (k : CpuStep t w) : CpuStep s w :=
  ⟨k.nmiRequest.trans h.nmiRequest, k.cyclesTotal.trans h.cyclesTotal, k.irqLine.trans h.irqLine,
    k.frames.trans h.frames, k.cart.trans h.cart, k.params.trans h.params, k.buttons.trans h.buttons,
    k.status.elim (fun e => h.status.imp (e.trans ·) (e.trans ·)) .inr, fun r => k.ram (h.ram r),
    fun l => k.latch (h.latch l), h.ppu.trans k.ppu⟩

/-- A change of CPU registers, flags and counts alone. -/
theorem CpuStep.regs (s : State) (a x y sp : Byte) (pc : Addr) (p : Flags) (e n : Nat) :
    CpuStep s { s with a := a, x := x, y := y, sp := sp, pc := pc, p := p, extraCycles := e, cycles := n } :=
  ⟨rfl, rfl, rfl, rfl, rfl, rfl, rfl, .inl rfl, id, id, .refl _⟩

theorem startInstr_cpuStep (n : Nat) (s : State) : CpuStep s (startInstr n s) :=
  .regs s s.a s.x s.y s.sp _ s.p _ s.cycles

theorem finishInstr_cpuStep (n : Nat) (s : State) : CpuStep s (finishInstr n s) :=
  .regs s s.a s.x s.y s.sp s.pc s.p s.extraCycles _

theorem afterRead_buttons (c : Controller) : c.afterRead.buttons = c.buttons := by
  unfold Controller.afterRead; split_ifs <;> rfl

theorem afterRead_latch (c : Controller) (h : c.strobe = true → c.shift = c.buttons) :
    c.afterRead.strobe = true → c.afterRead.shift = c.afterRead.buttons := by
  unfold Controller.afterRead; split_ifs with hs <;> simp_all

theorem afterStrobe_buttons (c : Controller) (d : Byte) : (c.afterStrobe d).buttons = c.buttons := by
  unfold Controller.afterStrobe; split_ifs <;> rfl

theorem afterStrobe_latch (c : Controller) (d : Byte) :
    (c.afterStrobe d).strobe = true → (c.afterStrobe d).shift = (c.afterStrobe d).buttons := by
  unfold Controller.afterStrobe; split_ifs <;> simp

theorem busRead_cpuStep (a : Addr) (s : State) : CpuStep s (busRead a s).2 := by
  obtain ⟨u, c, n, h, hu, hc⟩ := busRead_changes s a
  rw [h]
  refine ⟨rfl, rfl, rfl, rfl, rfl, rfl, ?_, .inl rfl, id, ?_, ?_⟩
  · rcases hc with rfl | rfl
    · rfl
    · exact afterRead_buttons _
  · rcases hc with rfl | rfl
    · exact id
    · exact afterRead_latch _
  · rcases hu with rfl | rfl | rfl
    · exact .refl _
    · exact afterStatusRead_cpuStep _
    · exact afterDataRead_cpuStep _ _

theorem ramPut_cpuStep (a : Addr) (v : Byte) (s : State) : CpuStep s (s.ramPut a v) :=
  ⟨rfl, rfl, rfl, rfl, rfl, rfl, rfl, .inl rfl, fun h => bytesWf_write v (ramIndex_lt a) h, id, .refl _⟩

theorem oamPut_cpuStep (k : Byte) (b : Byte) (s : State) :
    CpuStep s (s.setPpu { s.ppu with oam := Memory.write 0 s.ppu.oam k.toNat b }) :=
  ⟨rfl, rfl, rfl, rfl, rfl, rfl, rfl, .inl rfl, id, id,
    ⟨rfl, rfl, rfl, rfl, rfl, rfl, rfl, rfl, rfl, rfl, rfl, rfl, rfl, rfl, rfl, rfl, rfl, id,
      fun i => { i with oam := bytesWf_write b k.isLt i.oam }⟩⟩

theorem oamDmaLoop_cpuStep (d : Byte) (n : Nat) {s t : State} (h : oamDmaLoop d n s = .ok t) : CpuStep s t := by
  induction n generalizing s with
  | zero => exact Except.ok.inj h ▸ .refl s
  | succ n ih =>
    simp only [oamDmaLoop] at h
    split at h
    · cases h
    · rename_i b s1 hr
      obtain ⟨-, hb⟩ := (read_ok_iff _ _ _).1 hr
      have h1 : CpuStep s s1 := by
        have := busRead_cpuStep (hiLo d (BitVec.ofNat 8 (255 - n))) s
        rwa [hb] at this
      exact h1.trans ((oamPut_cpuStep _ b s1).trans (ih h))

theorem write_cpuStep {a : Addr} {v : Byte} {s t : State} (h : write a v s = .ok t) : CpuStep s t := by
  rcases write_cases s h with ⟨-, rfl⟩ | ⟨-, -, rfl⟩ | ⟨-, h⟩ | ⟨-, rfl⟩ | ⟨-, rfl⟩
  · exact ramPut_cpuStep a v s
  · exact ⟨rfl, rfl, rfl, rfl, rfl, rfl, rfl, .inl rfl, id, id, writeReg_cpuStep _ _ _ _⟩
  · unfold oamDma at h
    split at h
    · cases h
    · rename_i s1 h1
      rw [← Except.ok.inj h]
      exact (oamDmaLoop_cpuStep v 256 h1).trans
        (.regs s1 s1.a s1.x s1.y s1.sp s1.pc s1.p _ s1.cycles)
  · exact ⟨rfl, rfl, rfl, rfl, rfl, rfl, afterStrobe_buttons _ _, .inl rfl, id, fun _ => afterStrobe_latch _ _, .refl _⟩
  · exact .refl _

theorem push_cpuStep (b : Byte) (s : State) : CpuStep s (push b s) :=
  (ramPut_cpuStep _ b s).trans
    (.regs (s.ramPut (stackAddr s.sp) b) s.a s.x s.y (s.sp - 1) s.pc s.p s.extraCycles s.cycles)

theorem push16_cpuStep (w : Addr) (s : State) : CpuStep s (push16 w s) := (push_cpuStep _ s).trans (push_cpuStep _ _)

theorem takeInterrupt_cpuStep (b : Bool) (v : Addr) (s : State) : CpuStep s (takeInterrupt b v s) := by
  have h := (push16_cpuStep s.pc s).trans (push_cpuStep (s.p.pack b) (push16 s.pc s))
  refine h.trans ?_
  unfold takeInterrupt
  generalize push (s.p.pack b) (push16 s.pc s) = q
  exact .regs q q.a q.x q.y q.sp (s.vectorAt v) { s.p with i := true } q.extraCycles q.cycles

theorem returnFromInterrupt_cpuStep (s : State) : CpuStep s (returnFromInterrupt s) :=
  .regs s s.a s.x s.y _ _ _ s.extraCycles s.cycles

/-- The effect of a read-class instruction changes A, X, Y and the flags only. -/
theorem readInstr_cpuStep {o : Operand} {effect : Byte → State → State} {s t : State}
    (he : ∀ m s, CpuStep s (effect m s)) (h : readInstr o effect s = .next t) : CpuStep s t := by
  obtain ⟨m, s1, n, rfl, h1⟩ := readInstr_next s h
  have h2 : CpuStep s s1 := by
    rcases h1 with rfl | ⟨q, -, rfl⟩
    · exact startInstr_cpuStep _ s
    · have k := busRead_cpuStep (q.ea s) s
      generalize (busRead (q.ea s) s).2 = r at k ⊢
      exact k.trans (.regs r r.a r.x r.y r.sp _ r.p 0 r.cycles)
  exact h2.trans ((he m s1).trans (finishInstr_cpuStep _ _))

theorem writeInstr_cpuStep {m : MemOperand} {v : Byte} {s t : State} (h : writeInstr m v s = .next t) : CpuStep s t := by
  obtain ⟨s1, hw, rfl⟩ := writeInstr_next s h
  exact (startInstr_cpuStep _ s).trans ((write_cpuStep hw).trans (finishInstr_cpuStep _ _))

theorem rmwInstr_cpuStep {m : MemOperand} {op : Flags → Byte → RmwResult} {s t : State}
    (h : rmwInstr m op s = .next t) : CpuStep s t := by
  obtain ⟨-, s1, hw, rfl⟩ := rmwInstr_next s h
  have k := busRead_cpuStep (m.ea s) s
  have k2 := write_cpuStep hw
  refine k.trans (CpuStep.trans ?_ (k2.trans ?_))
  · generalize (busRead (m.ea s) s).2 = r
    exact .regs r r.a r.x r.y r.sp _ r.p 0 r.cycles
  · exact .regs s1 s1.a s1.x s1.y s1.sp s1.pc _ s1.extraCycles _

theorem accInstr_cpuStep {op : Flags → Byte → RmwResult} {s t : State} (h : accInstr op s = .next t) : CpuStep s t := by
  rw [accInstr_eq] at h
  rw [← Host.Outcome.next.inj h]
  exact .regs s _ s.x s.y s.sp _ _ _ _

theorem impliedInstr_cpuStep {n : Nat} {effect : State → State} {s t : State} (he : ∀ s, CpuStep s (effect s))
    (h : impliedInstr n effect s = .next t) : CpuStep s t := by
  rw [← Host.Outcome.next.inj h]
  exact (startInstr_cpuStep 1 s).trans ((he _).trans (finishInstr_cpuStep _ _))

theorem branchInstr_cpuStep {c : Bool} {off : Byte} {s t : State} (h : branchInstr c off s = .next t) : CpuStep s t := by
  rw [branchInstr_eq] at h
  rw [← Host.Outcome.next.inj h]
  exact .regs s s.a s.x s.y s.sp _ s.p _ _

theorem loadA_cpuStep (v : Byte) (s : State) : CpuStep s (loadA v s) :=
  .regs s v s.x s.y s.sp s.pc _ s.extraCycles s.cycles
theorem loadX_cpuStep (v : Byte) (s : State) : CpuStep s (loadX v s) :=
  .regs s s.a v s.y s.sp s.pc _ s.extraCycles s.cycles
theorem loadY_cpuStep (v : Byte) (s : State) : CpuStep s (loadY v s) :=
  .regs s s.a s.x v s.sp s.pc _ s.extraCycles s.cycles
theorem adcEffect_cpuStep (v : Byte) (s : State) : CpuStep s (adcEffect v s) :=
  .regs s _ s.x s.y s.sp s.pc _ s.extraCycles s.cycles
theorem setP_cpuStep (p : Flags) (s : State) : CpuStep s (s.setP p) :=
  .regs s s.a s.x s.y s.sp s.pc p s.extraCycles s.cycles
theorem pull_cpuStep (s : State) : CpuStep s (pull s) :=
  .regs s s.a s.x s.y _ s.pc s.p s.extraCycles s.cycles

theorem readEffect_cpuStep {e : Byte → State → State} (h : ReadEffect e) (m : Byte) (s : State) : CpuStep s (e m s) := by
  cases h
  case lda => exact loadA_cpuStep m s
  case ldx => exact loadX_cpuStep m s
  case ldy => exact loadY_cpuStep m s
  case adc => exact adcEffect_cpuStep m s
  case sbc => exact adcEffect_cpuStep (m ^^^ 0xFF#8) s
  case and => exact loadA_cpuStep (s.a &&& m) s
  case ora => exact loadA_cpuStep (s.a ||| m) s
  case eor => exact loadA_cpuStep (s.a ^^^ m) s
  all_goals exact setP_cpuStep _ s

theorem impliedEffect_cpuStep {e : State → State} (h : ImpliedEffect e) (s : State) : CpuStep s (e s) := by
  cases h
  case pha => exact push_cpuStep _ s
  case php => exact push_cpuStep _ s
  case pla => exact (pull_cpuStep s).trans (loadA_cpuStep _ _)
  case plp => exact (pull_cpuStep s).trans (setP_cpuStep _ _)
  case nop => exact .refl s
  case rts => exact .regs s s.a s.x s.y _ _ s.p s.extraCycles s.cycles
  case rti => exact returnFromInterrupt_cpuStep s
  case txs => exact .regs s s.a s.x s.y s.x s.pc s.p s.extraCycles s.cycles
  case tax => exact loadX_cpuStep _ s
  case tay => exact loadY_cpuStep _ s
  case tsx => exact loadX_cpuStep _ s
  case txa => exact loadA_cpuStep _ s
  case tya => exact loadA_cpuStep _ s
  case inx => exact loadX_cpuStep _ s
  case iny => exact loadY_cpuStep _ s
  case dex => exact loadX_cpuStep _ s
  case dey => exact loadY_cpuStep _ s
  all_goals exact setP_cpuStep _ s

/-- All `JMP (ind)` can do (R203). -/
theorem execJmpInd_eq (a : Addr) (s : State) (h : unmapped a = false)
    (h' : unmapped (hiLo (hiByte a) (loByte a + 1)) = false) :
    execJmpInd a s =
      let r1 := busRead a s
      let r2 := busRead (hiLo (hiByte a) (loByte a + 1)) r1.2
      .next { r2.2 with pc := hiLo r2.1 r1.1, extraCycles := 0, cycles := 5 } := by
  have e1 : (busRead a s).2.pc = s.pc := by rw [busRead_frame]
  unfold execJmpInd
  simp only [read_of_mapped _ h, busRead_startInstr]
  have e2 : ({ (busRead a s).2 with pc := s.pc + BitVec.ofNat 16 3, extraCycles := 0 } : State) =
      startInstr 3 (busRead a s).2 := by rw [startInstr_eq, e1]
  rw [e2, read_of_mapped _ h', busRead_startInstr]
  rfl

theorem execJmpInd_cpuStep {a : Addr} {s t : State} (h : execJmpInd a s = .next t) : CpuStep s t := by
  simp only [execJmpInd] at h
  split at h
  · cases h
  · rename_i lo s1 h1
    split at h
    · cases h
    · rename_i hi s2 h2
      rw [← Host.Outcome.next.inj h]
      have k1 := busRead_cpuStep a (startInstr 3 s)
      rw [((read_ok_iff _ _ _).1 h1).2] at k1
      have k2 := busRead_cpuStep (hiLo (hiByte a) (loByte a + 1)) s1
      rw [((read_ok_iff _ _ _).1 h2).2] at k2
      exact (startInstr_cpuStep 3 s).trans (k1.trans (k2.trans
        (.regs s2 s2.a s2.x s2.y s2.sp _ s2.p s2.extraCycles _)))

theorem execJsr_cpuStep (a : Addr) (s : State) {t : State} (h : execJsr a s = .next t) : CpuStep s t := by
  rw [← Host.Outcome.next.inj h]
  have k := push16_cpuStep (s.pc + 2) (startInstr 3 s)
  refine (startInstr_cpuStep 3 s).trans (k.trans ?_)
  generalize push16 (s.pc + 2) (startInstr 3 s) = q
  exact .regs q q.a q.x q.y q.sp a q.p q.extraCycles _

theorem execBrk_cpuStep (s : State) {t : State} (h : execBrk s = .next t) : CpuStep s t := by
  simp only [execBrk] at h
  split at h
  · rw [← Host.Outcome.next.inj h]
    exact (startInstr_cpuStep 2 s).trans ((takeInterrupt_cpuStep _ _ _).trans (finishInstr_cpuStep _ _))
  · rw [← Host.Outcome.next.inj h]
    exact ⟨rfl, rfl, rfl, rfl, rfl, rfl, rfl, .inr rfl, id, id, .refl _⟩

theorem shape_cpuStep {f : State → Host.Outcome State Fault Refusal} (hf : Shape f) {s t : State} (h : f s = .next t) :
    CpuStep s t := by
  cases hf with
  | read o he => exact readInstr_cpuStep (readEffect_cpuStep he) h
  | sta m => exact writeInstr_cpuStep h
  | stx m => exact writeInstr_cpuStep h
  | sty m => exact writeInstr_cpuStep h
  | rmw m _ => exact rmwInstr_cpuStep h
  | acc _ => exact accInstr_cpuStep h
  | implied n he => exact impliedInstr_cpuStep (impliedEffect_cpuStep he) h
  | branch _ off => exact branchInstr_cpuStep h
  | jmpAbs a =>
    rw [← Host.Outcome.next.inj h]
    exact .regs s s.a s.x s.y s.sp a s.p 0 _
  | jmpInd a => exact execJmpInd_cpuStep h
  | jsr a => exact execJsr_cpuStep a s h
  | brk => exact execBrk_cpuStep s h

/-- Whatever an instruction does, when it answers a next state the CPU's part of the step is kept. -/
theorem exec_cpuStep {i : Instr} {s t : State} (h : exec i s = .next t) : CpuStep s t := shape_cpuStep (exec_shape i) h

end Sys2Proof.Machine
end

