-- ==== Sys2Proof/Laws/Tick.lean ====
section
/-! SUPPORT. What a tick can do: the counters move by `advance`, the dot's work touches the pipeline, `v`, the frame buffer
and the four flags only, and the picture unit's invariant is kept. -/

namespace Sys2Proof.Machine

/-- Everything a dot's work leaves alone: the registers a program writes, the latch `t`, the counters, the memories and the
handed-out frame (60_exceptions.md rules R371 to R382). -/
structure Ppu.Keeps (u q : Ppu) : Prop where
  ctrl : q.ctrl = u.ctrl
  mask : q.mask = u.mask
  oamAddr : q.oamAddr = u.oamAddr
  t : q.t = u.t
  x : q.x = u.x
  w : q.w = u.w
  readBuffer : q.readBuffer = u.readBuffer
  scanline : q.scanline = u.scanline
  dot : q.dot = u.dot
  oddFrame : q.oddFrame = u.oddFrame
  frameComplete : q.frameComplete = u.frameComplete
  vram : q.vram = u.vram
  palette : q.palette = u.palette
  oam : q.oam = u.oam
  presented : q.presented = u.presented

theorem Ppu.Keeps.refl (u : Ppu) : u.Keeps u :=
  ⟨rfl, rfl, rfl, rfl, rfl, rfl, rfl, rfl, rfl, rfl, rfl, rfl, rfl, rfl, rfl⟩

theorem Ppu.Keeps.trans {u w z : Ppu} (h : u.Keeps w) (k : w.Keeps z) : u.Keeps z :=
  ⟨k.ctrl.trans h.ctrl, k.mask.trans h.mask, k.oamAddr.trans h.oamAddr, k.t.trans h.t, k.x.trans h.x, k.w.trans h.w,
    k.readBuffer.trans h.readBuffer, k.scanline.trans h.scanline, k.dot.trans h.dot, k.oddFrame.trans h.oddFrame,
    k.frameComplete.trans h.frameComplete, k.vram.trans h.vram, k.palette.trans h.palette, k.oam.trans h.oam,
    k.presented.trans h.presented⟩

theorem Ppu.Keeps.ite {u w z : Ppu} {p : Prop} [Decidable p] (h : u.Keeps w) (k : u.Keeps z) :
    u.Keeps (if p then w else z) := by
  split_ifs <;> assumption

/-- The background's work touches the pipeline and `v` only: besides `Keeps`, the frame and the four flags stay. -/
structure Ppu.KeepsPicture (u q : Ppu) : Prop where
  keeps : u.Keeps q
  frame : q.frame = u.frame
  vblank : q.vblank = u.vblank
  sprite0Hit : q.sprite0Hit = u.sprite0Hit
  spriteOverflow : q.spriteOverflow = u.spriteOverflow
  nmiPending : q.nmiPending = u.nmiPending

theorem Ppu.KeepsPicture.refl (u : Ppu) : u.KeepsPicture u := ⟨.refl u, rfl, rfl, rfl, rfl, rfl⟩

theorem Ppu.KeepsPicture.trans {u w z : Ppu} (h : u.KeepsPicture w) (k : w.KeepsPicture z) : u.KeepsPicture z :=
  ⟨h.keeps.trans k.keeps, k.frame.trans h.frame, k.vblank.trans h.vblank, k.sprite0Hit.trans h.sprite0Hit,
    k.spriteOverflow.trans h.spriteOverflow, k.nmiPending.trans h.nmiPending⟩

theorem Ppu.KeepsPicture.ite {u w z : Ppu} {p : Prop} [Decidable p] (h : u.KeepsPicture w) (k : u.KeepsPicture z) :
    u.KeepsPicture (if p then w else z) := by
  split_ifs <;> assumption

theorem fetchPhase_keeps (c : Cartridge) (n : Nat) (u : Ppu) : u.KeepsPicture (Ppu.fetchPhase c n u) := by
  unfold Ppu.fetchPhase
  split <;> exact ⟨⟨rfl, rfl, rfl, rfl, rfl, rfl, rfl, rfl, rfl, rfl, rfl, rfl, rfl, rfl, rfl⟩, rfl, rfl, rfl, rfl, rfl⟩

theorem backgroundDot_keeps (c : Cartridge) (s d : Nat) (u : Ppu) : u.KeepsPicture (Ppu.backgroundDot c s d u) := by
  have h1 : u.KeepsPicture (if fetchDot d then Ppu.fetchPhase c ((d - 1) % 8) u.shiftBg else u) :=
    .ite (.trans (w := u.shiftBg) ⟨⟨rfl, rfl, rfl, rfl, rfl, rfl, rfl, rfl, rfl, rfl, rfl, rfl, rfl, rfl, rfl⟩, rfl, rfl, rfl, rfl, rfl⟩ (fetchPhase_keeps c _ _)) (.refl u)
  refine h1.trans ?_
  unfold Ppu.backgroundDot
  dsimp only
  generalize (if fetchDot d then Ppu.fetchPhase c ((d - 1) % 8) u.shiftBg else u) = w
  have h2 : w.KeepsPicture (if d = 256 then { w with v := incY w.v } else w) :=
    .ite ⟨⟨rfl, rfl, rfl, rfl, rfl, rfl, rfl, rfl, rfl, rfl, rfl, rfl, rfl, rfl, rfl⟩, rfl, rfl, rfl, rfl, rfl⟩ (.refl w)
  refine h2.trans ?_
  generalize (if d = 256 then { w with v := incY w.v } else w) = z
  have h3 : z.KeepsPicture (if d = 257 then z.loadBg.copyHorizontal else z) :=
    .ite ⟨⟨rfl, rfl, rfl, rfl, rfl, rfl, rfl, rfl, rfl, rfl, rfl, rfl, rfl, rfl, rfl⟩, rfl, rfl, rfl, rfl, rfl⟩ (.refl z)
  refine h3.trans ?_
  generalize (if d = 257 then z.loadBg.copyHorizontal else z) = q
  exact .ite ⟨⟨rfl, rfl, rfl, rfl, rfl, rfl, rfl, rfl, rfl, rfl, rfl, rfl, rfl, rfl, rfl⟩, rfl, rfl, rfl, rfl, rfl⟩ (.refl q)

theorem backgroundWork_keeps (c : Cartridge) (u : Ppu) : u.KeepsPicture (u.backgroundWork c) :=
  .ite (backgroundDot_keeps c _ _ u) (.refl u)

theorem Ppu.KeepsPicture.inv {u w : Ppu} (h : u.KeepsPicture w) (i : u.Inv) : w.Inv where
  vram := by rw [h.keeps.vram]; exact i.vram
  palette := by rw [h.keeps.palette]; exact i.palette
  oam := by rw [h.keeps.oam]; exact i.oam
  frame := by rw [h.frame]; exact i.frame
  presented := by rw [h.keeps.presented]; exact i.presented
  scanline := by rw [h.keeps.scanline]; exact i.scanline
  dot := by rw [h.keeps.dot]; exact i.dot
  sprite0Hit := by rw [h.sprite0Hit]; exact i.sprite0Hit
  spriteOverflow := by rw [h.spriteOverflow]; exact i.spriteOverflow

/-- The four parts of a dot's work, in the order of R360. -/
theorem dotWork_eq (c : Cartridge) (u : Ppu) :
    ∃ u1 u2, u.KeepsPicture u1 ∧ (renderingEnabled u = false → u1 = u) ∧
      ((¬(u.scanline ≤ 239 ∧ 1 ≤ u.dot ∧ u.dot ≤ 256) ∧ u2 = u1) ∨
        (u.scanline ≤ 239 ∧ 1 ≤ u.dot ∧ u.dot ≤ 256 ∧ u2 = u1.outputPixel u.scanline (u.dot - 1))) ∧
      u.dotWork c =
        (if u.scanline = 241 ∧ u.dot = 1 then u2.vblankStart
         else if u.scanline = 261 ∧ u.dot = 1 then u2.prerenderClear else u2) := by
  have h1 : u.KeepsPicture (if renderingEnabled u then u.backgroundWork c else u) :=
    .ite (backgroundWork_keeps c u) (.refl u)
  refine ⟨if renderingEnabled u then u.backgroundWork c else u,
    if u.scanline ≤ 239 ∧ 1 ≤ u.dot ∧ u.dot ≤ 256 then
      (if renderingEnabled u then u.backgroundWork c else u).outputPixel u.scanline (u.dot - 1)
    else if renderingEnabled u then u.backgroundWork c else u, h1, by simp +contextual, ?_, ?_⟩
  · split_ifs with h h' h'
    · exact .inr ⟨h.1, h.2.1, h.2.2, rfl⟩
    · exact .inr ⟨h.1, h.2.1, h.2.2, rfl⟩
    · exact .inl ⟨h, rfl⟩
    · exact .inl ⟨h, rfl⟩
  · unfold Ppu.dotWork
    generalize hw : (if renderingEnabled u then u.backgroundWork c else u) = w at h1
    have hs := h1.keeps.scanline
    have hd := h1.keeps.dot
    simp only [hs, hd]
    have e1 : (if u.scanline ≤ 239 ∧ 1 ≤ u.dot ∧ u.dot ≤ 256 then w.outputPixel u.scanline (u.dot - 1) else w).scanline
        = u.scanline := by split_ifs <;> [exact hs; exact hs]
    have e2 : (if u.scanline ≤ 239 ∧ 1 ≤ u.dot ∧ u.dot ≤ 256 then w.outputPixel u.scanline (u.dot - 1) else w).dot
        = u.dot := by split_ifs <;> [exact hd; exact hd]
    simp only [e1, e2]
    by_cases h : u.scanline = 241 ∧ u.dot = 1
    · have e3 : (if u.scanline ≤ 239 ∧ 1 ≤ u.dot ∧ u.dot ≤ 256 then w.outputPixel u.scanline (u.dot - 1)
          else w).vblankStart.scanline = u.scanline := by simp only [Ppu.vblankStart]; exact e1
      simp only [h, and_self, if_true] at e3 ⊢
      rw [if_neg (by omega)]
    · simp only [h, if_false, e1, e2]

theorem outputPixel_keeps (y x : Nat) (u : Ppu) : u.Keeps (u.outputPixel y x) :=
  ⟨rfl, rfl, rfl, rfl, rfl, rfl, rfl, rfl, rfl, rfl, rfl, rfl, rfl, rfl, rfl⟩
theorem vblankStart_keeps (u : Ppu) : u.Keeps u.vblankStart :=
  ⟨rfl, rfl, rfl, rfl, rfl, rfl, rfl, rfl, rfl, rfl, rfl, rfl, rfl, rfl, rfl⟩
theorem prerenderClear_keeps (u : Ppu) : u.Keeps u.prerenderClear :=
  ⟨rfl, rfl, rfl, rfl, rfl, rfl, rfl, rfl, rfl, rfl, rfl, rfl, rfl, rfl, rfl⟩

theorem dotWork_keeps (c : Cartridge) (u : Ppu) : u.Keeps (u.dotWork c) := by
  obtain ⟨u1, u2, h1, -, h2, h3⟩ := dotWork_eq c u
  have k2 : u.Keeps u2 := by
    rcases h2 with ⟨-, rfl⟩ | ⟨-, -, -, rfl⟩
    · exact h1.keeps
    · exact h1.keeps.trans (outputPixel_keeps _ _ _)
  rw [h3]
  exact .ite (k2.trans (vblankStart_keeps _)) (.ite (k2.trans (prerenderClear_keeps _)) k2)

theorem outputPixel_inv {u : Ppu} {y x : Nat} (hy : y < 240) (hx : x < 256) (h : u.Inv) : (u.outputPixel y x).Inv :=
  { h with frame := Frame.setPixel_wf _ hy hx h.frame }

theorem dotWork_inv (c : Cartridge) {u : Ppu} (h : u.Inv) : (u.dotWork c).Inv := by
  obtain ⟨u1, u2, h1, -, h2, h3⟩ := dotWork_eq c u
  have i2 : u2.Inv := by
    rcases h2 with ⟨-, rfl⟩ | ⟨hs, hd, hd', rfl⟩
    · exact h1.inv h
    · exact outputPixel_inv (by omega) (by omega) (h1.inv h)
  rw [h3]
  split_ifs
  · exact { i2 with }
  · exact { i2 with sprite0Hit := rfl, spriteOverflow := rfl }
  · exact i2

/-- The three ways the counters move (60_exceptions.md rule R361). -/
theorem advance_cases (skip : Bool) (u : Ppu) :
    (u.skipsDot skip = false ∧ u.dot < 340 ∧ u.advance skip = ({ u with dot := u.dot + 1 }, false)) ∨
    (u.skipsDot skip = false ∧ 340 ≤ u.dot ∧ u.scanline < 261 ∧
      u.advance skip = ({ u with scanline := u.scanline + 1, dot := 0 }, false)) ∨
    ((u.skipsDot skip = true ∨ (340 ≤ u.dot ∧ 261 ≤ u.scanline)) ∧
      u.advance skip = (({ u with scanline := 0, dot := 0 } : Ppu).wrap, true)) := by
  unfold Ppu.advance
  split_ifs with h1 h2 h3
  · exact .inr (.inr ⟨.inl h1, rfl⟩)
  · exact .inl ⟨by simpa using h1, h2, rfl⟩
  · exact .inr (.inl ⟨by simpa using h1, by omega, h3, rfl⟩)
  · exact .inr (.inr ⟨.inr ⟨by omega, by omega⟩, rfl⟩)

theorem advance_inv (skip : Bool) {u : Ppu} (h : u.Inv) : (u.advance skip).1.Inv := by
  rcases advance_cases skip u with ⟨-, h2, h3⟩ | ⟨-, h2, h3, h4⟩ | ⟨-, h2⟩
  · rw [h3]; exact { h with dot := by simp; omega }
  · rw [h4]; exact { h with scanline := by simp; omega, dot := by simp }
  · rw [h2]
    exact { h with
      scanline := by simp [Ppu.wrap]
      dot := by simp [Ppu.wrap]
      presented := by intro f hf; cases hf; exact h.frame }

/-- A tick keeps the picture unit's invariant. -/
theorem tick_inv (c : Cartridge) (skip : Bool) {u : Ppu} (h : u.Inv) : (tick c skip u).ppu.Inv :=
  dotWork_inv c (advance_inv skip h)

theorem tick_presented (c : Cartridge) (skip : Bool) (u : Ppu) :
    (tick c skip u).ppu.presented = (u.advance skip).1.presented := (dotWork_keeps c _).presented

/-- Ticks keep the invariant, and every frame they report is in canonical form. -/
theorem ticks_inv (c : Cartridge) (skip : Bool) (n : Nat) {u : Ppu} (h : u.Inv) :
    (ticks c skip n u).ppu.Inv ∧ ∀ f ∈ (ticks c skip n u).frames, Frame.wf f = true := by
  induction n generalizing u with
  | zero => exact ⟨h, by simp [ticks]⟩
  | succ n ih =>
    obtain ⟨h1, h2⟩ := ih (tick_inv c skip h)
    refine ⟨h1, ?_⟩
    intro f hf
    simp only [ticks, List.mem_append] at hf
    rcases hf with hf | hf
    · split_ifs at hf with hd
      · exact (tick_inv c skip h).presented f (by simpa using hf)
      · simp at hf
    · exact h2 f hf

/-- What a run of ticks leaves alone, dot by dot: the registers and memories a program writes. -/
structure Ppu.KeepsRegs (u q : Ppu) : Prop where
  ctrl : q.ctrl = u.ctrl
  mask : q.mask = u.mask
  oamAddr : q.oamAddr = u.oamAddr
  t : q.t = u.t
  x : q.x = u.x
  w : q.w = u.w
  readBuffer : q.readBuffer = u.readBuffer
  vram : q.vram = u.vram
  palette : q.palette = u.palette
  oam : q.oam = u.oam

theorem advance_keepsRegs (skip : Bool) (u : Ppu) : u.KeepsRegs (u.advance skip).1 := by
  rcases advance_cases skip u with ⟨-, -, h3⟩ | ⟨-, -, -, h4⟩ | ⟨-, h2⟩
  · rw [h3]; exact ⟨rfl, rfl, rfl, rfl, rfl, rfl, rfl, rfl, rfl, rfl⟩
  · rw [h4]; exact ⟨rfl, rfl, rfl, rfl, rfl, rfl, rfl, rfl, rfl, rfl⟩
  · rw [h2]; exact ⟨rfl, rfl, rfl, rfl, rfl, rfl, rfl, rfl, rfl, rfl⟩

theorem tick_keepsRegs (c : Cartridge) (skip : Bool) (u : Ppu) : u.KeepsRegs (tick c skip u).ppu := by
  have a := advance_keepsRegs skip u
  have k := dotWork_keeps c (u.advance skip).1
  exact ⟨k.ctrl.trans a.ctrl, k.mask.trans a.mask, k.oamAddr.trans a.oamAddr, k.t.trans a.t, k.x.trans a.x, k.w.trans a.w,
    k.readBuffer.trans a.readBuffer, k.vram.trans a.vram, k.palette.trans a.palette, k.oam.trans a.oam⟩

theorem ticks_keepsRegs (c : Cartridge) (skip : Bool) (n : Nat) (u : Ppu) : u.KeepsRegs (ticks c skip n u).ppu := by
  induction n generalizing u with
  | zero => exact ⟨rfl, rfl, rfl, rfl, rfl, rfl, rfl, rfl, rfl, rfl⟩
  | succ n ih =>
    have a := tick_keepsRegs c skip u
    have k := ih (tick c skip u).ppu
    exact ⟨k.ctrl.trans a.ctrl, k.mask.trans a.mask, k.oamAddr.trans a.oamAddr, k.t.trans a.t, k.x.trans a.x,
      k.w.trans a.w, k.readBuffer.trans a.readBuffer, k.vram.trans a.vram, k.palette.trans a.palette, k.oam.trans a.oam⟩

/-! ### A tick and the position -/

/-- The number of the dot in the frame: 0 at (0, 0), 89341 at (261, 340). -/
def Ppu.position (u : Ppu) : Nat := u.scanline * 341 + u.dot

/-- What a dot's work does to the two vertical-blank flags (60_exceptions.md rules R380, R382). -/
theorem dotWork_flags (c : Cartridge) (u : Ppu) :
    (u.dotWork c).nmiPending =
      (if u.scanline = 241 ∧ u.dot = 1 then u.nmiPending || u.ctrl.getLsbD 7
       else if u.scanline = 261 ∧ u.dot = 1 then false else u.nmiPending) ∧
    (u.dotWork c).vblank =
      (if u.scanline = 241 ∧ u.dot = 1 then true else if u.scanline = 261 ∧ u.dot = 1 then false else u.vblank) := by
  obtain ⟨u1, u2, h1, -, h2, h3⟩ := dotWork_eq c u
  have k : u2.nmiPending = u.nmiPending ∧ u2.vblank = u.vblank ∧ u2.ctrl = u.ctrl := by
    rcases h2 with ⟨-, rfl⟩ | ⟨-, -, -, rfl⟩ <;> exact ⟨h1.nmiPending, h1.vblank, h1.keeps.ctrl⟩
  obtain ⟨k1, k2, k3⟩ := k
  rw [h3]
  split_ifs
  · simp only [Ppu.vblankStart, k1, k3, and_self]
  · exact ⟨rfl, rfl⟩
  · exact ⟨k1, k2⟩

/-- What a dot's work does to the two sprite flags: the pre-render line clears them (60_exceptions.md rules R382, R386). -/
theorem dotWork_spriteFlags (c : Cartridge) (u : Ppu) :
    (u.dotWork c).sprite0Hit = (if u.scanline = 261 ∧ u.dot = 1 then false else u.sprite0Hit) ∧
    (u.dotWork c).spriteOverflow = (if u.scanline = 261 ∧ u.dot = 1 then false else u.spriteOverflow) := by
  obtain ⟨u1, u2, h1, -, h2, h3⟩ := dotWork_eq c u
  have k : u2.sprite0Hit = u.sprite0Hit ∧ u2.spriteOverflow = u.spriteOverflow := by
    rcases h2 with ⟨-, rfl⟩ | ⟨-, -, -, rfl⟩ <;> exact ⟨h1.sprite0Hit, h1.spriteOverflow⟩
  rw [h3]
  split_ifs with h4 h5
  · omega
  · exact k
  · exact ⟨rfl, rfl⟩
  · exact k

/-- A tick inside a frame: one dot on, no frame completed. -/
structure Ppu.Moves (u : Ppu) (r : TickResult) : Prop where
  frameDone : r.frameDone = false
  position : r.ppu.position = u.position + 1
  dot : r.ppu.dot < 341
  scanline : r.ppu.scanline < 262
  oddFrame : r.ppu.oddFrame = u.oddFrame
  frameComplete : r.ppu.frameComplete = u.frameComplete
  presented : r.ppu.presented = u.presented
  nmiNew : r.nmiNew = (decide (u.position = 82181) && u.ctrl.getLsbD 7)
  nmiPending : r.ppu.nmiPending =
    if u.position = 82181 then u.nmiPending || u.ctrl.getLsbD 7 else if u.position = 89001 then false else u.nmiPending
  vblank : r.ppu.vblank =
    if u.position = 82181 then true else if u.position = 89001 then false else u.vblank

theorem tick_moves (c : Cartridge) (skip : Bool) {u : Ppu} (hd : u.dot < 341) (hs : u.scanline < 262)
    (hk : u.skipsDot skip = false) (hp : u.position + 1 < 89342) : u.Moves (tick c skip u) := by
  have key : ∀ (s d : Nat), s < 262 → d < 341 → s * 341 + d = u.position + 1 →
      u.advance skip = ({ u with scanline := s, dot := d }, false) → u.Moves (tick c skip u) := by
    intro s d h1 h2 h3 h4
    have e1 : (s = 241 ∧ d = 1) ↔ u.position = 82181 := by omega
    have e2 : (s = 261 ∧ d = 1) ↔ u.position = 89001 := by omega
    have k := dotWork_keeps c { u with scanline := s, dot := d }
    obtain ⟨f1, f2⟩ := dotWork_flags c { u with scanline := s, dot := d }
    simp only [e1, e2] at f1 f2
    refine ⟨?_, ?_, ?_, ?_, ?_, ?_, ?_, ?_, ?_, ?_⟩ <;> simp only [tick, h4]
    · rw [Ppu.position, k.scanline, k.dot]; exact h3
    · rw [k.dot]; exact h2
    · rw [k.scanline]; exact h1
    · exact k.oddFrame
    · exact k.frameComplete
    · exact k.presented
    · have e3 : (s == 241 && d == 1) = decide (u.position = 82181) := by
        rw [← decide_eq_decide.2 e1, Bool.decide_and]; rfl
      rw [e3]
    · exact f1
    · exact f2
  unfold Ppu.position at hp
  rcases advance_cases skip u with ⟨-, h2, h3⟩ | ⟨-, h2, h3, h4⟩ | ⟨h1, -⟩
  · exact key u.scanline (u.dot + 1) hs (by omega) (by unfold Ppu.position; omega) h3
  · exact key (u.scanline + 1) 0 (by omega) (by omega) (by unfold Ppu.position; omega) h4
  · rcases h1 with h1 | ⟨h1, h1'⟩
    · rw [hk] at h1; cases h1
    · omega

/-- The tick that ends a frame (60_exceptions.md rules R361, R390). -/
structure Ppu.Wraps (u : Ppu) (r : TickResult) : Prop where
  frameDone : r.frameDone = true
  scanline : r.ppu.scanline = 0
  dot : r.ppu.dot = 0
  oddFrame : r.ppu.oddFrame = !u.oddFrame
  frameComplete : r.ppu.frameComplete = true
  presented : r.ppu.presented = some u.frame
  nmiNew : r.nmiNew = false
  nmiPending : r.ppu.nmiPending = u.nmiPending

theorem tick_wraps (c : Cartridge) (skip : Bool) {u : Ppu}
    (h : u.skipsDot skip = true ∨ (u.scanline = 261 ∧ u.dot = 340)) : u.Wraps (tick c skip u) := by
  have ha : u.advance skip = (({ u with scanline := 0, dot := 0 } : Ppu).wrap, true) := by
    rcases advance_cases skip u with ⟨h1, h2, -⟩ | ⟨h1, h2, h3, -⟩ | ⟨-, h2⟩
    · rcases h with h | h
      · rw [h1] at h; cases h
      · omega
    · rcases h with h | h
      · rw [h1] at h; cases h
      · omega
    · exact h2
  have k := dotWork_keeps c ({ u with scanline := 0, dot := 0 } : Ppu).wrap
  obtain ⟨f1, -⟩ := dotWork_flags c ({ u with scanline := 0, dot := 0 } : Ppu).wrap
  refine ⟨?_, ?_, ?_, ?_, ?_, ?_, ?_, ?_⟩ <;> simp only [tick, ha]
  · exact k.scanline
  · exact k.dot
  · exact k.oddFrame
  · exact k.frameComplete
  · exact k.presented
  · rfl
  · exact f1

/-- The last tick of a run comes after the others. -/
theorem ticks_succ_last (c : Cartridge) (skip : Bool) (n : Nat) (u : Ppu) :
    ticks c skip (n + 1) u =
      let rs := ticks c skip n u
      let r := tick c skip rs.ppu
      { ppu := r.ppu, nmiNew := rs.nmiNew || r.nmiNew
        frames := rs.frames ++ if r.frameDone then r.ppu.presented.toList else [] } := by
  induction n generalizing u with
  | zero => simp [ticks]; rfl
  | succ n ih =>
    have h := ih (tick c skip u).ppu
    simp only [ticks] at h ⊢
    simp only [TicksResult.mk.injEq] at h ⊢
    refine ⟨h.1, ?_, ?_⟩
    · rw [h.2.1, Bool.or_assoc]
    · rw [h.2.2, List.append_assoc]; rfl

end Sys2Proof.Machine
end

