-- ==== Sys2Proof/Laws/Driver.lean ====
section
/-! SUPPORT. The fetch, the driver's part of a step, and everything a step can do. -/

namespace Sys2Proof.Machine

variable (s : State)

/-! ### The fetch -/

theorem readPlain {a : Addr} {b : Byte} (h : s.peek a = some b) : read a s = .ok (b, s) := read_of_peek s h

/-- Fetching an instruction of one byte from plain memory changes nothing. -/
theorem fetch_of_peek0 {op : Byte} {row : OpRow} (h : s.peek s.pc = some op) (hr : lookupOp op = some row)
    (hl : row.mode.operandBytes = 0) : fetch s = .ok (row.instr 0 0, s) := by
  simp only [fetch, readPlain s h, hr, hl]

/-- Fetching an instruction of two bytes from plain memory changes nothing. -/
theorem fetch_of_peek1 {op b1 : Byte} {row : OpRow} (h : s.peek s.pc = some op) (hr : lookupOp op = some row)
    (hl : row.mode.operandBytes = 1) (h1 : s.peek (s.pc + 1) = some b1) : fetch s = .ok (row.instr b1 0, s) := by
  simp only [fetch, readPlain s h, hr, hl, readPlain s h1]

/-- Fetching an instruction of three bytes from plain memory changes nothing. -/
theorem fetch_of_peek2 {op b1 b2 : Byte} {row : OpRow} (h : s.peek s.pc = some op) (hr : lookupOp op = some row)
    (hl : row.mode.operandBytes = 2) (h1 : s.peek (s.pc + 1) = some b1) (h2 : s.peek (s.pc + 2) = some b2) :
    fetch s = .ok (row.instr b1 b2, s) := by
  simp only [fetch, readPlain s h, hr, hl, readPlain s h1, readPlain s h2]

/-- A fetch is at most three bus reads: it keeps what they keep. -/
theorem fetch_cpuStep {i : Instr} {t : State} (h : fetch s = .ok (i, t)) : CpuStep s t := by
  have rd : ∀ {a : Addr} {q : State} {b : Byte} {w : State}, read a q = .ok (b, w) → CpuStep q w := by
    intro a q b w hr
    have k := busRead_cpuStep a q
    rwa [((read_ok_iff _ _ _).1 hr).2] at k
  unfold fetch at h
  split at h
  · cases h
  · rename_i op s1 h1
    have k1 := rd h1
    split at h
    · cases h
    · split at h
      · cases h; exact k1
      · split at h
        · cases h
        · rename_i h2
          cases h; exact k1.trans (rd h2)
      · split at h
        · cases h
        · rename_i h2
          split at h
          · cases h
          · rename_i h3
            cases h; exact k1.trans ((rd h2).trans (rd h3))

/-! ### The driver's part -/

@[simp] theorem afterCpu_a : (afterCpu s).a = s.a := rfl
@[simp] theorem afterCpu_x : (afterCpu s).x = s.x := rfl
@[simp] theorem afterCpu_y : (afterCpu s).y = s.y := rfl
@[simp] theorem afterCpu_sp : (afterCpu s).sp = s.sp := rfl
@[simp] theorem afterCpu_pc : (afterCpu s).pc = s.pc := rfl
@[simp] theorem afterCpu_p : (afterCpu s).p = s.p := rfl
@[simp] theorem afterCpu_status : (afterCpu s).status = s.status := rfl
@[simp] theorem afterCpu_ram : (afterCpu s).ram = s.ram := rfl
@[simp] theorem afterCpu_ctl : (afterCpu s).ctl = s.ctl := rfl
@[simp] theorem afterCpu_irqLine : (afterCpu s).irqLine = s.irqLine := rfl
@[simp] theorem afterCpu_extraCycles : (afterCpu s).extraCycles = s.extraCycles := rfl
@[simp] theorem afterCpu_cycles : (afterCpu s).cycles = s.cycles := rfl
@[simp] theorem afterCpu_draws : (afterCpu s).draws = s.draws := rfl
@[simp] theorem afterCpu_cart : (afterCpu s).cart = s.cart := rfl
@[simp] theorem afterCpu_params : (afterCpu s).params = s.params := rfl
@[simp] theorem afterCpu_cyclesTotal : (afterCpu s).cyclesTotal = s.cyclesTotal + s.cycles := rfl
@[simp] theorem afterCpu_frames : (afterCpu s).frames = s.frames ++ stepFrames (stepTicks s) := rfl
@[simp] theorem afterCpu_nmiRequest : (afterCpu s).nmiRequest =
    (s.nmiRequest || ((stepTicks s).nmiNew || (stepTicks s).ppu.nmiPending)) := rfl
@[simp] theorem afterCpu_ppu : (afterCpu s).ppu =
    { (stepTicks s).ppu with nmiPending := false, frameComplete := false } := rfl

/-- The driver leaves both flags of the picture unit taken, and keeps its invariant. -/
theorem afterCpu_inv (h : s.ppu.Inv) : (afterCpu s).ppu.Inv := { (ticks_inv s.cart _ _ h).1 with }

theorem stepFrames_wf {r : TicksResult} (hp : r.ppu.Inv) (hf : ∀ f ∈ r.frames, Frame.wf f = true) :
    ∀ f ∈ stepFrames r, Frame.wf f = true := by
  intro f hm
  unfold stepFrames at hm
  split_ifs at hm
  · exact hp.presented f (by simpa using hm)
  · exact hf f hm

theorem nmiEntry_cpuStep :
    CpuStep (s.setNmiRequest false) (nmiEntry s) := by
  have k := takeInterrupt_cpuStep s.params.pushBOnHwInterrupt nmiVector (s.setNmiRequest false)
  refine k.trans ?_
  exact .regs (takeInterrupt s.params.pushBOnHwInterrupt nmiVector (s.setNmiRequest false)) _ _ _ _ _ _ _ _

theorem irqEntry_cpuStep : CpuStep s (irqEntry s) :=
  (takeInterrupt_cpuStep _ _ s).trans
    (.regs (takeInterrupt s.params.pushBOnHwInterrupt irqVector s) _ _ _ _ _ _ _ _)

/-- Everything a step can do when it answers a next state (60_exceptions.md rule R410). -/
theorem step_next {s t : State} (h : step s = .next t) :
    (s.status = .halted ∧ t = s) ∨
    (s.status = .running ∧ event s = .nmi ∧ t = afterCpu (nmiEntry s)) ∨
    (s.status = .running ∧ event s = .irq ∧ t = afterCpu (irqEntry s)) ∨
    (s.status = .running ∧ event s = .step ∧
      ∃ i s1 s2, fetch s = .ok (i, s1) ∧ exec i s1 = .next s2 ∧ t = afterCpu s2) := by
  unfold step at h
  split at h
  · rename_i hs
    exact .inl ⟨hs, (Host.Outcome.next.inj h).symm⟩
  · cases h
  · rename_i hs
    split at h
    · rename_i he
      exact .inr (.inl ⟨hs, he, (Host.Outcome.next.inj h).symm⟩)
    · rename_i he
      exact .inr (.inr (.inl ⟨hs, he, (Host.Outcome.next.inj h).symm⟩))
    · rename_i he
      split at h
      · cases h
      · rename_i i s1 hf
        split at h
        · rename_i s2 hx
          exact .inr (.inr (.inr ⟨hs, he, i, s1, s2, hf, hx, (Host.Outcome.next.inj h).symm⟩))
        · cases h
        · cases h

end Sys2Proof.Machine
end

