-- ==== Sys2Proof/Laws/Draws.lean ====
section
/-! SUPPORT. How many open-bus bytes each operation draws, and what a fault leaves: the count never goes back, and a fault
moves it past every byte the faulted step can have drawn (00_scope.md rule R17, log 1). -/

namespace Sys2Proof.Machine

/-- From one machine to the other at most `n` bytes were drawn, and the count did not go back. -/
structure Drew (n : Nat) (s t : State) : Prop where
  monotone : s.draws ≤ t.draws
  bound : t.draws ≤ s.draws + n

theorem Drew.of_eq {s t : State} (h : t.draws = s.draws) : Drew 0 s t := ⟨h.ge, h.le⟩

theorem Drew.trans {m n : Nat} {s t u : State} (h : Drew m s t) (k : Drew n t u) : Drew (m + n) s u :=
  ⟨h.monotone.trans k.monotone, k.bound.trans (by have := h.bound; omega)⟩

theorem Drew.mono {m n : Nat} {s t : State} (h : Drew m s t) (hn : m ≤ n) : Drew n s t :=
  ⟨h.monotone, h.bound.trans (by omega)⟩

/-- A bus read draws at most one byte. -/
theorem busRead_drew (a : Addr) (s : State) : Drew 1 s (busRead a s).2 := by
  unfold busRead readPpu
  split_ifs <;> (try split) <;> exact ⟨by simp [readController], by simp [readController]⟩

theorem read_drew {a : Addr} {b : Byte} {s t : State} (h : read a s = .ok (b, t)) : Drew 1 s t := by
  have k := busRead_drew a s
  rwa [((read_ok_iff _ _ _).1 h).2] at k

/-- A run of OAM DMA's reads draws at most a byte each. -/
theorem oamDmaLoop_drew (d : Byte) (n : Nat) {s t : State} (h : oamDmaLoop d n s = .ok t) : Drew n s t := by
  induction n generalizing s with
  | zero => exact .of_eq (congrArg State.draws (Except.ok.inj h).symm)
  | succ n ih =>
    simp only [oamDmaLoop] at h
    split at h
    · cases h
    · rename_i b s1 hr
      have k := ih h
      exact ((read_drew hr).trans ⟨k.monotone, k.bound⟩).mono (by omega)

/-- A bus write draws nothing, but for the reads of an OAM DMA. -/
theorem write_drew {a : Addr} {v : Byte} {s t : State} (h : write a v s = .ok t) : Drew 256 s t := by
  have none : ∀ u : State, u.draws = s.draws → Drew 256 s u := fun u h => (Drew.of_eq h).mono (by omega)
  rcases write_cases s h with ⟨-, rfl⟩ | ⟨-, -, rfl⟩ | ⟨-, h⟩ | ⟨-, rfl⟩ | ⟨-, rfl⟩
  iterate 2 exact none _ rfl
  · unfold oamDma at h
    split at h
    · cases h
    · rename_i s1 h1
      have k := oamDmaLoop_drew v 256 h1
      rw [← Except.ok.inj h]
      exact ⟨k.monotone, k.bound⟩
  iterate 2 exact none _ rfl

/-- A fetch draws at most a byte for each byte of the instruction. -/
theorem fetch_drew {i : Instr} {s t : State} (h : fetch s = .ok (i, t)) : Drew 3 s t := by
  unfold fetch at h
  split at h
  · cases h
  · rename_i h1
    split at h
    · cases h
    · split at h
      · cases h; exact (read_drew h1).mono (by omega)
      · split at h
        · cases h
        · rename_i h2
          cases h; exact ((read_drew h1).trans (read_drew h2)).mono (by omega)
      · split at h
        · cases h
        · rename_i h2
          split at h
          · cases h
          · rename_i h3
            cases h; exact ((read_drew h1).trans (read_drew h2)).trans (read_drew h3)

/-- A push draws nothing, and so does an interrupt's entry. -/
@[simp] theorem push_draws (b : Byte) (s : State) : (push b s).draws = s.draws := rfl
@[simp] theorem push16_draws (w : Addr) (s : State) : (push16 w s).draws = s.draws := rfl

@[simp] theorem takeInterrupt_draws (b : Bool) (v : Addr) (s : State) : (takeInterrupt b v s).draws = s.draws := by
  simp [takeInterrupt]

@[simp] theorem nmiEntry_draws (s : State) : (nmiEntry s).draws = s.draws := by simp [nmiEntry]
@[simp] theorem irqEntry_draws (s : State) : (irqEntry s).draws = s.draws := by simp [irqEntry]

/-! ### What a fault leaves -/

variable (r : Fault) (s : State)

@[simp] theorem State.faultedBy_status : (s.faultedBy r).status = .faulted r := rfl
@[simp] theorem State.faultedBy_draws : (s.faultedBy r).draws = s.draws + Config.drawsPerStep := rfl

/-- A fault leaves everything as it was but the status, and the model's own count of drawn bytes. -/
theorem State.faultedBy_eq :
    s.faultedBy r = { s with status := .faulted r, draws := s.draws + Config.drawsPerStep } := rfl

/-- All that a driver step can do. -/
theorem driverStep_cases :
    (s.status ≠ .running ∧ driverStep s = s) ∨ (∃ t, step s = .next t ∧ driverStep s = t) ∨
    (∃ r, step s = .fault r ∧ driverStep s = s.faultedBy r) ∨ (∃ r, step s = .refused r ∧ driverStep s = s) := by
  cases hs : s.status with
  | halted => exact .inl ⟨by simp, by simp [driverStep, hs]⟩
  | faulted r => exact .inl ⟨by simp, by simp [driverStep, hs]⟩
  | running =>
    cases h : step s with
    | next t => exact .inr (.inl ⟨t, rfl, by simp [driverStep, hs, h]⟩)
    | fault r => exact .inr (.inr (.inl ⟨r, rfl, by simp [driverStep, hs, h]⟩))
    | refused r => exact .inr (.inr (.inr ⟨r, rfl, by simp [driverStep, hs, h]⟩))

end Sys2Proof.Machine
end

