-- ==== Sys2Proof/Laws/Flags.lean ====
section
/-! SUPPORT. The flag computations: which bit each flag is, and the results as numbers. -/

namespace Sys2Proof.Machine

variable (p : Flags)

/-- The bits of a pushed status byte (10_state.md rule R37). -/
theorem pack_getLsbD (b : Bool) :
    (p.pack b).getLsbD 7 = p.n ∧ (p.pack b).getLsbD 6 = p.v ∧ (p.pack b).getLsbD 5 = true ∧ (p.pack b).getLsbD 4 = b ∧
      (p.pack b).getLsbD 3 = p.d ∧ (p.pack b).getLsbD 2 = p.i ∧ (p.pack b).getLsbD 1 = p.z ∧
      (p.pack b).getLsbD 0 = p.c := by
  obtain ⟨n, v, f, d, i, z, c⟩ := p
  revert n v f d i z c b
  decide +kernel

@[simp] theorem setNZ_c (r : Byte) : (p.setNZ r).c = p.c := rfl
@[simp] theorem setNZ_z (r : Byte) : (p.setNZ r).z = (r == 0#8) := rfl
@[simp] theorem setNZ_n (r : Byte) : (p.setNZ r).n = r.getLsbD 7 := rfl
@[simp] theorem setNZ_v (r : Byte) : (p.setNZ r).v = p.v := rfl
@[simp] theorem setNZ_d (r : Byte) : (p.setNZ r).d = p.d := rfl
@[simp] theorem setNZ_i (r : Byte) : (p.setNZ r).i = p.i := rfl
@[simp] theorem setNZ_b (r : Byte) : (p.setNZ r).b = p.b := rfl

theorem toNat_adcResult (a m : Byte) (c : Bool) : (adcResult a m c).toNat = (a.toNat + m.toNat + c.toNat) % 256 := by
  simp [adcResult, adcSum]

theorem adcSum_lt (a m : Byte) (c : Bool) : adcSum a m c < 512 := by
  have h1 := a.isLt
  have h2 := m.isLt
  have h3 : c.toNat ≤ 1 := by cases c <;> decide
  unfold adcSum
  omega

end Sys2Proof.Machine
end

