-- ==== Sys2Proof/Laws/PerInstr.lean ====
section
/-! SUPPORT. Laws per instruction: the family EncodedLength says that an instruction's encoding begins with the opcode byte
of a row of the opcode map and has the length of that row's mode (30_encoding.md rules R160, R162). -/

namespace Sys2Proof.Laws.EncodedLength

/-- The row of the opcode map an instruction's first byte selects gives the instruction's length. -/
def Statement (i : Instr) : Prop :=
  ∃ row, lookupOp ((encode i).headD 0) = some row ∧ row.opcode = (encode i).headD 0 ∧
    (encode i).length = row.mode.length

theorem ldaImm (imm : Byte) : Statement (.ldaImm imm) := ⟨_, rfl, rfl, rfl⟩
theorem ldaZp (zp : Byte) : Statement (.ldaZp zp) := ⟨_, rfl, rfl, rfl⟩
theorem ldaZpX (zp : Byte) : Statement (.ldaZpX zp) := ⟨_, rfl, rfl, rfl⟩
theorem ldaAbs (addr : Addr) : Statement (.ldaAbs addr) := ⟨_, rfl, rfl, rfl⟩
theorem ldaAbsX (addr : Addr) : Statement (.ldaAbsX addr) := ⟨_, rfl, rfl, rfl⟩
theorem ldaAbsY (addr : Addr) : Statement (.ldaAbsY addr) := ⟨_, rfl, rfl, rfl⟩
theorem ldaIndX (zp : Byte) : Statement (.ldaIndX zp) := ⟨_, rfl, rfl, rfl⟩
theorem ldaIndY (zp : Byte) : Statement (.ldaIndY zp) := ⟨_, rfl, rfl, rfl⟩
theorem ldxImm (imm : Byte) : Statement (.ldxImm imm) := ⟨_, rfl, rfl, rfl⟩
theorem ldxZp (zp : Byte) : Statement (.ldxZp zp) := ⟨_, rfl, rfl, rfl⟩
theorem ldxZpY (zp : Byte) : Statement (.ldxZpY zp) := ⟨_, rfl, rfl, rfl⟩
theorem ldxAbs (addr : Addr) : Statement (.ldxAbs addr) := ⟨_, rfl, rfl, rfl⟩
theorem ldxAbsY (addr : Addr) : Statement (.ldxAbsY addr) := ⟨_, rfl, rfl, rfl⟩
theorem ldyImm (imm : Byte) : Statement (.ldyImm imm) := ⟨_, rfl, rfl, rfl⟩
theorem ldyZp (zp : Byte) : Statement (.ldyZp zp) := ⟨_, rfl, rfl, rfl⟩
theorem ldyZpX (zp : Byte) : Statement (.ldyZpX zp) := ⟨_, rfl, rfl, rfl⟩
theorem ldyAbs (addr : Addr) : Statement (.ldyAbs addr) := ⟨_, rfl, rfl, rfl⟩
theorem ldyAbsX (addr : Addr) : Statement (.ldyAbsX addr) := ⟨_, rfl, rfl, rfl⟩
theorem staZp (zp : Byte) : Statement (.staZp zp) := ⟨_, rfl, rfl, rfl⟩
theorem staZpX (zp : Byte) : Statement (.staZpX zp) := ⟨_, rfl, rfl, rfl⟩
theorem staAbs (addr : Addr) : Statement (.staAbs addr) := ⟨_, rfl, rfl, rfl⟩
theorem staAbsX (addr : Addr) : Statement (.staAbsX addr) := ⟨_, rfl, rfl, rfl⟩
theorem staAbsY (addr : Addr) : Statement (.staAbsY addr) := ⟨_, rfl, rfl, rfl⟩
theorem staIndX (zp : Byte) : Statement (.staIndX zp) := ⟨_, rfl, rfl, rfl⟩
theorem staIndY (zp : Byte) : Statement (.staIndY zp) := ⟨_, rfl, rfl, rfl⟩
theorem stxZp (zp : Byte) : Statement (.stxZp zp) := ⟨_, rfl, rfl, rfl⟩
theorem stxZpY (zp : Byte) : Statement (.stxZpY zp) := ⟨_, rfl, rfl, rfl⟩
theorem stxAbs (addr : Addr) : Statement (.stxAbs addr) := ⟨_, rfl, rfl, rfl⟩
theorem styZp (zp : Byte) : Statement (.styZp zp) := ⟨_, rfl, rfl, rfl⟩
theorem styZpX (zp : Byte) : Statement (.styZpX zp) := ⟨_, rfl, rfl, rfl⟩
theorem styAbs (addr : Addr) : Statement (.styAbs addr) := ⟨_, rfl, rfl, rfl⟩
theorem tax : Statement .tax := ⟨_, rfl, rfl, rfl⟩
theorem tay : Statement .tay := ⟨_, rfl, rfl, rfl⟩
theorem tsx : Statement .tsx := ⟨_, rfl, rfl, rfl⟩
theorem txa : Statement .txa := ⟨_, rfl, rfl, rfl⟩
theorem txs : Statement .txs := ⟨_, rfl, rfl, rfl⟩
theorem tya : Statement .tya := ⟨_, rfl, rfl, rfl⟩
theorem adcImm (imm : Byte) : Statement (.adcImm imm) := ⟨_, rfl, rfl, rfl⟩
theorem adcZp (zp : Byte) : Statement (.adcZp zp) := ⟨_, rfl, rfl, rfl⟩
theorem adcZpX (zp : Byte) : Statement (.adcZpX zp) := ⟨_, rfl, rfl, rfl⟩
theorem adcAbs (addr : Addr) : Statement (.adcAbs addr) := ⟨_, rfl, rfl, rfl⟩
theorem adcAbsX (addr : Addr) : Statement (.adcAbsX addr) := ⟨_, rfl, rfl, rfl⟩
theorem adcAbsY (addr : Addr) : Statement (.adcAbsY addr) := ⟨_, rfl, rfl, rfl⟩
theorem adcIndX (zp : Byte) : Statement (.adcIndX zp) := ⟨_, rfl, rfl, rfl⟩
theorem adcIndY (zp : Byte) : Statement (.adcIndY zp) := ⟨_, rfl, rfl, rfl⟩
theorem sbcImm (imm : Byte) : Statement (.sbcImm imm) := ⟨_, rfl, rfl, rfl⟩
theorem sbcZp (zp : Byte) : Statement (.sbcZp zp) := ⟨_, rfl, rfl, rfl⟩
theorem sbcZpX (zp : Byte) : Statement (.sbcZpX zp) := ⟨_, rfl, rfl, rfl⟩
theorem sbcAbs (addr : Addr) : Statement (.sbcAbs addr) := ⟨_, rfl, rfl, rfl⟩
theorem sbcAbsX (addr : Addr) : Statement (.sbcAbsX addr) := ⟨_, rfl, rfl, rfl⟩
theorem sbcAbsY (addr : Addr) : Statement (.sbcAbsY addr) := ⟨_, rfl, rfl, rfl⟩
theorem sbcIndX (zp : Byte) : Statement (.sbcIndX zp) := ⟨_, rfl, rfl, rfl⟩
theorem sbcIndY (zp : Byte) : Statement (.sbcIndY zp) := ⟨_, rfl, rfl, rfl⟩
theorem andImm (imm : Byte) : Statement (.andImm imm) := ⟨_, rfl, rfl, rfl⟩
theorem andZp (zp : Byte) : Statement (.andZp zp) := ⟨_, rfl, rfl, rfl⟩
theorem andZpX (zp : Byte) : Statement (.andZpX zp) := ⟨_, rfl, rfl, rfl⟩
theorem andAbs (addr : Addr) : Statement (.andAbs addr) := ⟨_, rfl, rfl, rfl⟩
theorem andAbsX (addr : Addr) : Statement (.andAbsX addr) := ⟨_, rfl, rfl, rfl⟩
theorem andAbsY (addr : Addr) : Statement (.andAbsY addr) := ⟨_, rfl, rfl, rfl⟩
theorem andIndX (zp : Byte) : Statement (.andIndX zp) := ⟨_, rfl, rfl, rfl⟩
theorem andIndY (zp : Byte) : Statement (.andIndY zp) := ⟨_, rfl, rfl, rfl⟩
theorem oraImm (imm : Byte) : Statement (.oraImm imm) := ⟨_, rfl, rfl, rfl⟩
theorem oraZp (zp : Byte) : Statement (.oraZp zp) := ⟨_, rfl, rfl, rfl⟩
theorem oraZpX (zp : Byte) : Statement (.oraZpX zp) := ⟨_, rfl, rfl, rfl⟩
theorem oraAbs (addr : Addr) : Statement (.oraAbs addr) := ⟨_, rfl, rfl, rfl⟩
theorem oraAbsX (addr : Addr) : Statement (.oraAbsX addr) := ⟨_, rfl, rfl, rfl⟩
theorem oraAbsY (addr : Addr) : Statement (.oraAbsY addr) := ⟨_, rfl, rfl, rfl⟩
theorem oraIndX (zp : Byte) : Statement (.oraIndX zp) := ⟨_, rfl, rfl, rfl⟩
theorem oraIndY (zp : Byte) : Statement (.oraIndY zp) := ⟨_, rfl, rfl, rfl⟩
theorem eorImm (imm : Byte) : Statement (.eorImm imm) := ⟨_, rfl, rfl, rfl⟩
theorem eorZp (zp : Byte) : Statement (.eorZp zp) := ⟨_, rfl, rfl, rfl⟩
theorem eorZpX (zp : Byte) : Statement (.eorZpX zp) := ⟨_, rfl, rfl, rfl⟩
theorem eorAbs (addr : Addr) : Statement (.eorAbs addr) := ⟨_, rfl, rfl, rfl⟩
theorem eorAbsX (addr : Addr) : Statement (.eorAbsX addr) := ⟨_, rfl, rfl, rfl⟩
theorem eorAbsY (addr : Addr) : Statement (.eorAbsY addr) := ⟨_, rfl, rfl, rfl⟩
theorem eorIndX (zp : Byte) : Statement (.eorIndX zp) := ⟨_, rfl, rfl, rfl⟩
theorem eorIndY (zp : Byte) : Statement (.eorIndY zp) := ⟨_, rfl, rfl, rfl⟩
theorem cmpImm (imm : Byte) : Statement (.cmpImm imm) := ⟨_, rfl, rfl, rfl⟩
theorem cmpZp (zp : Byte) : Statement (.cmpZp zp) := ⟨_, rfl, rfl, rfl⟩
theorem cmpZpX (zp : Byte) : Statement (.cmpZpX zp) := ⟨_, rfl, rfl, rfl⟩
theorem cmpAbs (addr : Addr) : Statement (.cmpAbs addr) := ⟨_, rfl, rfl, rfl⟩
theorem cmpAbsX (addr : Addr) : Statement (.cmpAbsX addr) := ⟨_, rfl, rfl, rfl⟩
theorem cmpAbsY (addr : Addr) : Statement (.cmpAbsY addr) := ⟨_, rfl, rfl, rfl⟩
theorem cmpIndX (zp : Byte) : Statement (.cmpIndX zp) := ⟨_, rfl, rfl, rfl⟩
theorem cmpIndY (zp : Byte) : Statement (.cmpIndY zp) := ⟨_, rfl, rfl, rfl⟩
theorem cpxImm (imm : Byte) : Statement (.cpxImm imm) := ⟨_, rfl, rfl, rfl⟩
theorem cpxZp (zp : Byte) : Statement (.cpxZp zp) := ⟨_, rfl, rfl, rfl⟩
theorem cpxAbs (addr : Addr) : Statement (.cpxAbs addr) := ⟨_, rfl, rfl, rfl⟩
theorem cpyImm (imm : Byte) : Statement (.cpyImm imm) := ⟨_, rfl, rfl, rfl⟩
theorem cpyZp (zp : Byte) : Statement (.cpyZp zp) := ⟨_, rfl, rfl, rfl⟩
theorem cpyAbs (addr : Addr) : Statement (.cpyAbs addr) := ⟨_, rfl, rfl, rfl⟩
theorem bitZp (zp : Byte) : Statement (.bitZp zp) := ⟨_, rfl, rfl, rfl⟩
theorem bitAbs (addr : Addr) : Statement (.bitAbs addr) := ⟨_, rfl, rfl, rfl⟩
theorem incZp (zp : Byte) : Statement (.incZp zp) := ⟨_, rfl, rfl, rfl⟩
theorem incZpX (zp : Byte) : Statement (.incZpX zp) := ⟨_, rfl, rfl, rfl⟩
theorem incAbs (addr : Addr) : Statement (.incAbs addr) := ⟨_, rfl, rfl, rfl⟩
theorem incAbsX (addr : Addr) : Statement (.incAbsX addr) := ⟨_, rfl, rfl, rfl⟩
theorem decZp (zp : Byte) : Statement (.decZp zp) := ⟨_, rfl, rfl, rfl⟩
theorem decZpX (zp : Byte) : Statement (.decZpX zp) := ⟨_, rfl, rfl, rfl⟩
theorem decAbs (addr : Addr) : Statement (.decAbs addr) := ⟨_, rfl, rfl, rfl⟩
theorem decAbsX (addr : Addr) : Statement (.decAbsX addr) := ⟨_, rfl, rfl, rfl⟩
theorem inx : Statement .inx := ⟨_, rfl, rfl, rfl⟩
theorem iny : Statement .iny := ⟨_, rfl, rfl, rfl⟩
theorem dex : Statement .dex := ⟨_, rfl, rfl, rfl⟩
theorem dey : Statement .dey := ⟨_, rfl, rfl, rfl⟩
theorem aslA : Statement .aslA := ⟨_, rfl, rfl, rfl⟩
theorem aslZp (zp : Byte) : Statement (.aslZp zp) := ⟨_, rfl, rfl, rfl⟩
theorem aslZpX (zp : Byte) : Statement (.aslZpX zp) := ⟨_, rfl, rfl, rfl⟩
theorem aslAbs (addr : Addr) : Statement (.aslAbs addr) := ⟨_, rfl, rfl, rfl⟩
theorem aslAbsX (addr : Addr) : Statement (.aslAbsX addr) := ⟨_, rfl, rfl, rfl⟩
theorem lsrA : Statement .lsrA := ⟨_, rfl, rfl, rfl⟩
theorem lsrZp (zp : Byte) : Statement (.lsrZp zp) := ⟨_, rfl, rfl, rfl⟩
theorem lsrZpX (zp : Byte) : Statement (.lsrZpX zp) := ⟨_, rfl, rfl, rfl⟩
theorem lsrAbs (addr : Addr) : Statement (.lsrAbs addr) := ⟨_, rfl, rfl, rfl⟩
theorem lsrAbsX (addr : Addr) : Statement (.lsrAbsX addr) := ⟨_, rfl, rfl, rfl⟩
theorem rolA : Statement .rolA := ⟨_, rfl, rfl, rfl⟩
theorem rolZp (zp : Byte) : Statement (.rolZp zp) := ⟨_, rfl, rfl, rfl⟩
theorem rolZpX (zp : Byte) : Statement (.rolZpX zp) := ⟨_, rfl, rfl, rfl⟩
theorem rolAbs (addr : Addr) : Statement (.rolAbs addr) := ⟨_, rfl, rfl, rfl⟩
theorem rolAbsX (addr : Addr) : Statement (.rolAbsX addr) := ⟨_, rfl, rfl, rfl⟩
theorem rorA : Statement .rorA := ⟨_, rfl, rfl, rfl⟩
theorem rorZp (zp : Byte) : Statement (.rorZp zp) := ⟨_, rfl, rfl, rfl⟩
theorem rorZpX (zp : Byte) : Statement (.rorZpX zp) := ⟨_, rfl, rfl, rfl⟩
theorem rorAbs (addr : Addr) : Statement (.rorAbs addr) := ⟨_, rfl, rfl, rfl⟩
theorem rorAbsX (addr : Addr) : Statement (.rorAbsX addr) := ⟨_, rfl, rfl, rfl⟩
theorem bcc (off : Byte) : Statement (.bcc off) := ⟨_, rfl, rfl, rfl⟩
theorem bcs (off : Byte) : Statement (.bcs off) := ⟨_, rfl, rfl, rfl⟩
theorem beq (off : Byte) : Statement (.beq off) := ⟨_, rfl, rfl, rfl⟩
theorem bmi (off : Byte) : Statement (.bmi off) := ⟨_, rfl, rfl, rfl⟩
theorem bne (off : Byte) : Statement (.bne off) := ⟨_, rfl, rfl, rfl⟩
theorem bpl (off : Byte) : Statement (.bpl off) := ⟨_, rfl, rfl, rfl⟩
theorem bvc (off : Byte) : Statement (.bvc off) := ⟨_, rfl, rfl, rfl⟩
theorem bvs (off : Byte) : Statement (.bvs off) := ⟨_, rfl, rfl, rfl⟩
theorem jmpAbs (addr : Addr) : Statement (.jmpAbs addr) := ⟨_, rfl, rfl, rfl⟩
theorem jmpInd (ptr : Addr) : Statement (.jmpInd ptr) := ⟨_, rfl, rfl, rfl⟩
theorem jsr (addr : Addr) : Statement (.jsr addr) := ⟨_, rfl, rfl, rfl⟩
theorem rts : Statement .rts := ⟨_, rfl, rfl, rfl⟩
theorem brk : Statement .brk := ⟨_, rfl, rfl, rfl⟩
theorem rti : Statement .rti := ⟨_, rfl, rfl, rfl⟩
theorem pha : Statement .pha := ⟨_, rfl, rfl, rfl⟩
theorem php : Statement .php := ⟨_, rfl, rfl, rfl⟩
theorem pla : Statement .pla := ⟨_, rfl, rfl, rfl⟩
theorem plp : Statement .plp := ⟨_, rfl, rfl, rfl⟩
theorem clc : Statement .clc := ⟨_, rfl, rfl, rfl⟩
theorem cld : Statement .cld := ⟨_, rfl, rfl, rfl⟩
theorem cli : Statement .cli := ⟨_, rfl, rfl, rfl⟩
theorem clv : Statement .clv := ⟨_, rfl, rfl, rfl⟩
theorem sec : Statement .sec := ⟨_, rfl, rfl, rfl⟩
theorem sed : Statement .sed := ⟨_, rfl, rfl, rfl⟩
theorem sei : Statement .sei := ⟨_, rfl, rfl, rfl⟩
theorem nop : Statement .nop := ⟨_, rfl, rfl, rfl⟩

end Sys2Proof.Laws.EncodedLength
end

