-- ==== Sys2Proof/Laws/Pipeline.lean ====
section
/-! SUPPORT. The background pipeline on numbers: the four fetch addresses, the shift and the load of the registers, the two bits
a pixel takes, and what of the pipeline a dot's work leaves to `backgroundWork` (60_exceptions.md rules R371 to R378). -/

namespace Sys2Proof.Machine

/-- A field of a bit vector, on numbers. -/
theorem toNat_extract {n : Nat} (x : BitVec n) (lo w : Nat) :
    (x.extractLsb' lo w).toNat = x.toNat / 2 ^ lo % 2 ^ w := by
  simp [BitVec.extractLsb', Nat.shiftRight_eq_div_pow]

/-- Joining two bit vectors, on numbers. -/
theorem toNat_join {m n : Nat} (h : BitVec m) (l : BitVec n) : (h ++ l).toNat = h.toNat * 2 ^ n + l.toNat := by
  rw [BitVec.toNat_append, ← Nat.shiftLeft_add_eq_or_of_lt l.isLt, Nat.shiftLeft_eq]

/-- The nametable fetch address (R374). -/
theorem ntAddr_eq (u : Ppu) : u.ntAddr = BitVec.ofNat 14 (0x2000 + u.v.toNat % 4096) := by
  have : u.ntAddr = 2#2 ++ u.v.extractLsb' 0 12 := by
    unfold Ppu.ntAddr
    apply BitVec.eq_of_getLsbD_eq
    intro i hi
    simp only [BitVec.getLsbD_append, BitVec.getLsbD_or, BitVec.getLsbD_and, BitVec.getLsbD_setWidth,
      BitVec.getLsbD_extractLsb']
    interval_cases i <;> simp
  apply BitVec.eq_of_toNat_eq
  rw [this, toNat_join, toNat_extract, BitVec.toNat_ofNat]
  simp
  omega

/-- The attribute fetch address (R374). -/
theorem atAddr_eq (u : Ppu) : u.atAddr =
    BitVec.ofNat 14 (0x23C0 + u.v.toNat / 1024 % 4 * 1024 + u.v.toNat / 128 % 8 * 8 + u.v.toNat / 4 % 8) := by
  have : u.atAddr = 2#2 ++ (u.v.extractLsb' 10 2 ++ (15#4 ++ (u.v.extractLsb' 7 3 ++ u.v.extractLsb' 2 3))) := by
    unfold Ppu.atAddr
    apply BitVec.eq_of_getLsbD_eq
    intro i hi
    simp only [BitVec.getLsbD_append, BitVec.getLsbD_or, BitVec.getLsbD_and, BitVec.getLsbD_setWidth,
      BitVec.getLsbD_extractLsb', BitVec.getLsbD_ushiftRight]
    interval_cases i <;> simp
  apply BitVec.eq_of_toNat_eq
  rw [this]
  simp only [toNat_join, toNat_extract, BitVec.toNat_ofNat]
  simp
  omega

/-- The address of a tile row's low pattern byte (R374). -/
theorem ptAddr_eq (u : Ppu) : u.ptAddr =
    BitVec.ofNat 14 ((if u.ctrl.getLsbD 4 then 0x1000 else 0) + u.ntLatch.toNat * 16 + u.v.toNat / 4096) := by
  simp [Ppu.ptAddr, Nat.shiftRight_eq_div_pow]

/-- The load of a shift register's low byte (R372). -/
theorem toNat_loadLow (r : BitVec 16) (b : Byte) : (loadLow r b).toNat = r.toNat / 256 * 256 + b.toNat := by
  have : loadLow r b = r.extractLsb' 8 8 ++ b := by
    unfold loadLow
    apply BitVec.eq_of_getLsbD_eq
    intro i hi
    simp only [BitVec.getLsbD_append, BitVec.getLsbD_or, BitVec.getLsbD_and, BitVec.getLsbD_setWidth,
      BitVec.getLsbD_extractLsb']
    interval_cases i <;> simp
  rw [this, toNat_join, toNat_extract]
  have := r.isLt
  omega

theorem toNat_spread (b : Bool) : (spread b).toNat = if b then 255 else 0 := by cases b <;> rfl

/-- A read of the PPU space looks at the memories only. -/
theorem ppuRead_congr (c : Cartridge) {u q : Ppu} (o : Byte) (a : PpuAddr) (hv : q.vram = u.vram)
    (hp : q.palette = u.palette) : ppuRead c q o a = ppuRead c u o a := by
  unfold ppuRead Ppu.paletteAt
  rw [hv, hp]

/-- The pipeline: `v`, the four latches and the four shift registers are the same. -/
structure Ppu.SamePipeline (u q : Ppu) : Prop where
  v : q.v = u.v
  ntLatch : q.ntLatch = u.ntLatch
  atLatch : q.atLatch = u.atLatch
  ptLoLatch : q.ptLoLatch = u.ptLoLatch
  ptHiLatch : q.ptHiLatch = u.ptHiLatch
  shPatLo : q.shPatLo = u.shPatLo
  shPatHi : q.shPatHi = u.shPatHi
  shAttLo : q.shAttLo = u.shAttLo
  shAttHi : q.shAttHi = u.shAttHi

/-- Of a dot's work, only `backgroundWork` moves the pipeline (R360). -/
theorem dotWork_pipeline (c : Cartridge) (u : Ppu) :
    Ppu.SamePipeline (if renderingEnabled u then u.backgroundWork c else u) (u.dotWork c) := by
  unfold Ppu.dotWork
  generalize (if renderingEnabled u then u.backgroundWork c else u) = z
  dsimp only
  split_ifs <;> exact ⟨rfl, rfl, rfl, rfl, rfl, rfl, rfl, rfl, rfl⟩

/-- The counters' move leaves the pipeline alone (R361). -/
theorem advance_pipeline (skip : Bool) (u : Ppu) : u.SamePipeline (u.advance skip).1 := by
  rcases advance_cases skip u with ⟨-, -, h⟩ | ⟨-, -, -, h⟩ | ⟨-, h⟩ <;> rw [h] <;>
    exact ⟨rfl, rfl, rfl, rfl, rfl, rfl, rfl, rfl, rfl⟩

end Sys2Proof.Machine
end

