-- ==== Sys2Proof/Laws/Reset.lean ====
section
/-! SUPPORT. Reset: the memories of `State.reset` are in canonical form, it is the power-on of the blank cartridge, and what
an accepted cartridge image gives. -/

namespace Sys2Proof.Machine

theorem reset_ram_wf : Memory.wf 0 State.reset.ram = true := rfl
theorem reset_vram_wf : Memory.wf 0 State.reset.ppu.vram = true := rfl
theorem reset_palette_wf : Memory.wf 0 State.reset.ppu.palette = true := rfl
theorem reset_oam_wf : Memory.wf 0 State.reset.ppu.oam = true := rfl

/-- `State.reset` is the power-on of the blank cartridge with the defaults of 00_scope.md rule R11. -/
theorem reset_eq_powerOn : State.reset = powerOn Cartridge.blank Params.default InitParams.zero := rfl

/-- An image is accepted exactly when the four checks pass (20_memory.md rule R120). -/
theorem check_none_iff (c : CartridgeImage) :
    c.check = none ↔ c.mapper = 0 ∧ (c.prg.length = 16384 ∨ c.prg.length = 32768) ∧ c.chr.length = 8192 ∧
      c.layout ≠ .other := by
  unfold CartridgeImage.check prgBankSize chrSize
  constructor
  · intro h
    split_ifs at h with h1 h2 h3 h4
    exact ⟨by omega, by omega, by omega, h4⟩
  · rintro ⟨h1, h2, h3, h4⟩
    rw [if_neg (by omega), if_neg (by omega), if_neg (by omega), if_neg h4]

/-- What ingestion gives for an accepted image. -/
theorem ingest_ok_iff (c : CartridgeImage) (k : Cartridge) :
    ingest c = .ok k ↔ c.check = none ∧
      k = { banks := banksOf c.prg.length, prg := Memory.ofList 0 c.prg.length c.prg
            chr := Memory.ofList 0 c.chr.length c.chr, mirroring := mirroringOf c.layout } := by
  unfold ingest
  cases h : c.check with
  | none => simp [eq_comm]
  | some e => simp

end Sys2Proof.Machine
end

