-- ==== Sys2Proof/Tests/Slice0.lean ====
section
/-! SUPPORT. Tests. Expected values are those of spec/95_test_vectors.md, whose row a test names, or are worked out by
hand from the rule a test names. The last part shows, for each statement that has hypotheses, a state and operands that
meet them. -/

namespace Sys2Proof.Tests

open Sys2Proof.Machine Sys2Proof.Claims

/-! ### Ill-formed cartridges (R120) -/

/-- An image of these sizes, all 0. -/
def image (mapper prg chr : Nat) (layout : Layout) : CartridgeImage :=
  { prg := List.replicate prg 0, chr := List.replicate chr 0, mapper := mapper, layout := layout }

/-- FT6. -/
theorem test_FT6_mapper : (image 1 16384 8192 .vertical).check = some (.unsupportedMapper 1) := by
  simp only [CartridgeImage.check, image, List.length_replicate]; decide

/-- FT7. -/
theorem test_FT7_prgSize : (image 0 8192 8192 .vertical).check = some (.badPrgSize 8192) := by
  simp only [CartridgeImage.check, image, List.length_replicate]; decide

/-- FT8. -/
theorem test_FT8_chrSize : (image 0 16384 0 .vertical).check = some (.badChrSize 0) := by
  simp only [CartridgeImage.check, image, List.length_replicate]; decide

/-- FT9: the first failure wins. -/
theorem test_FT9_order : (image 1 8192 8192 .vertical).check = some (.unsupportedMapper 1) := by
  simp only [CartridgeImage.check, image, List.length_replicate]; decide

/-- FT10. -/
theorem test_FT10_layout : (image 0 16384 8192 .other).check = some .unsupportedMirroring := by
  simp only [CartridgeImage.check, image, List.length_replicate]; decide

/-- No ill-formed image becomes a machine, and a well-formed one is accepted (R120, R323). -/
theorem test_wellFormed_refuses :
    (image 1 16384 8192 .vertical).wellFormed = false ∧ (image 0 8192 8192 .vertical).wellFormed = false ∧
    (image 0 16384 0 .vertical).wellFormed = false ∧ (image 0 16384 8192 .other).wellFormed = false ∧
    (image 0 16384 8192 .horizontal).wellFormed = true ∧ (image 0 32768 8192 .vertical).wellFormed = true := by
  simp only [CartridgeImage.wellFormed, CartridgeImage.check, image, List.length_replicate]; decide

/-! ### Encodings, written out from opcode_table.json bit by bit -/

/-- The first word's bits 7 to 0 are the opcode, the next bytes the operand, low byte first (R160, R161, R163). -/
theorem test_decode_words :
    decodeTableWord 16 0b00000101_10101001 = some (.ldaImm 0x05) ∧
    decodeTableWord 16 0b00010000_10010001 = some (.staIndY 0x10) ∧
    decodeTableWord 8 0b10101010 = some .tax ∧
    decodeTableWord 24 0b00010010_00110100_01111101 = some (.adcAbsX 0x1234) ∧
    decodeTableWord 16 0b11111110_01100001 = some (.adcIndX 0xFE) ∧
    decodeTableWord 16 0b00000000_00100100 = some (.bitZp 0x00) ∧
    decodeTableWord 8 0b00001010 = some .aslA ∧
    decodeTableWord 24 0b00000010_00000000_01111110 = some (.rorAbsX 0x0200) ∧
    decodeTableWord 16 0b11111011_11010000 = some (.bne 0xFB) ∧
    decodeTableWord 24 0b00000010_11111111_01101100 = some (.jmpInd 0x02FF) ∧
    decodeTableWord 24 0b10010000_00000000_00100000 = some (.jsr 0x9000) ∧
    decodeTableWord 8 0b01000000 = some .rti ∧
    decodeTableWord 8 0b00101000 = some .plp ∧
    decodeTableWord 16 0b11111111_10110110 = some (.ldxZpY 0xFF) := by decide

/-- Undefined opcode bytes are rejected by name (R170), and a cut-off instruction too. -/
theorem test_decode_rejects :
    decode [0x02] = .error (.undefinedOpcode 0x02) ∧ decode [0xFF, 0x00] = .error (.undefinedOpcode 0xFF) ∧
    decode [0xAD, 0x34] = .error (.truncated 0xAD) ∧ decode [] = .error .noBytes := by
  refine ⟨?_, ?_, ?_, ?_⟩ <;> rfl

/-- Words of every length come back from the encoder (R161). -/
theorem test_encode : encode (.ldaAbs 0x1234) = [0xAD, 0x34, 0x12] ∧ encode (.bcc 0xFE) = [0x90, 0xFE] ∧
    encode .brk = [0x00] := by refine ⟨?_, ?_, ?_⟩ <;> rfl

/-! ### One instruction each -/

/-- The vectors' default machine: PC at 0x8000, all three vectors 0x8000. -/
def rom : Cartridge := { Cartridge.blank with prg := [(0x3FFB, 0x80), (0x3FFD, 0x80), (0x3FFF, 0x80)] }

/-- That machine after power-on. -/
def m0 : State := { State.reset with pc := 0x8000, cart := rom }

/-- Decode the bytes and execute the instruction: none if they do not decode whole, or if it does not complete. -/
def run (bytes : List Byte) (s : State) : Option State :=
  match decode bytes with
  | .ok (i, []) =>
    match exec i s with
    | .next t => some t
    | _ => none
  | _ => none

/-- T1.1. -/
theorem test_T1_1_ldaAbsY :
    (run [0xB9, 0x00, 0x12] { m0 with ram := [(767, 0x01)], y := 0xFF }).map (fun t => (t.a, t.cycles)) =
      some (0x01, 4) := by decide

/-- T1.2. -/
theorem test_T1_2_ldaAbsX :
    (run [0xBD, 0xF0, 0x12] { m0 with ram := [(784, 0x99)], x := 0x20 }).map (fun t => (t.a, t.p.n, t.cycles)) =
      some (0x99, true, 5) := by decide

/-- T1.3. -/
theorem test_T1_3_ldaIndY :
    (run [0xB1, 0x10] { m0 with ram := [(16, 0xF0), (17, 0x02), (784, 0x77)], y := 0x20 }).map (fun t =>
        (t.a, t.cycles)) =
      some (0x77, 6) := by decide

/-- T1.4. -/
theorem test_T1_4_staAbsX :
    (run [0x9D, 0x00, 0x02] { m0 with a := 0x11, x := 0xFF }).map (fun t => (t.ramAt 0x2FF, t.cycles)) =
      some (0x11, 5) := by decide

/-- T1.5. -/
theorem test_T1_5_beq :
    (run [0xF0, 0x10] m0).map (fun t => (t.pc, t.cycles)) =
      some (0x8002, 2) := by decide

/-- T1.6. -/
theorem test_T1_6_bne :
    (run [0xD0, 0x10] m0).map (fun t => (t.pc, t.cycles)) =
      some (0x8012, 3) := by decide

/-- T1.7. -/
theorem test_T1_7_bne :
    (run [0xD0, 0x05] { m0 with pc := 0x80FD }).map (fun t => (t.pc, t.cycles)) =
      some (0x8104, 4) := by decide

/-- T1.8. -/
theorem test_T1_8_bcs :
    (run [0xB0, 0x80] { m0 with p := { Flags.reset with c := true } }).map (fun t => (t.pc, t.cycles)) =
      some (0x7F82, 4) := by decide

/-- T2.1. -/
theorem test_T2_1_pha :
    (run [0x48] { m0 with sp := 0x00, a := 0xAB }).map (fun t => (t.ramAt 0x100, t.sp, t.status, t.cycles)) =
      some (0xAB, 0xFF, .running, 3) := by decide

/-- T2.2. -/
theorem test_T2_2_pla :
    (run [0x68] { m0 with ram := [(256, 0x80)], sp := 0xFF }).map (fun t => (t.a, t.p.n, t.sp, t.cycles)) =
      some (0x80, true, 0x00, 4) := by decide

/-- T2.3. -/
theorem test_T2_3_jsr :
    (run [0x20, 0x00, 0x90] { m0 with sp := 0x00 }).map (fun t =>
        (t.ramAt 0x100, t.ramAt 0x1FF, t.sp, t.pc, t.cycles)) =
      some (0x80, 0x02, 0xFE, 0x9000, 6) := by decide

/-- AM1. -/
theorem test_AM1_ldaZpX :
    (run [0xB5, 0xF0] { m0 with ram := [(16, 0x42), (272, 0x99)], x := 0x20 }).map (fun t => (t.a, t.cycles)) =
      some (0x42, 4) := by decide

/-- AM2. -/
theorem test_AM2_ldxZpY :
    (run [0xB6, 0xFF] { m0 with ram := [(1, 0x0F)], y := 0x02 }).map (fun t => (t.x, t.cycles)) =
      some (0x0F, 4) := by decide

/-- AM3. -/
theorem test_AM3_ldaIndX :
    (run [0xA1, 0xFE] { m0 with ram := [(0, 0x03), (768, 0x5A)], x := 1 }).map (fun t => (t.a, t.cycles)) =
      some (0x5A, 6) := by decide

/-- AM4. -/
theorem test_AM4_ldaIndY :
    (run [0xB1, 0xFF] { m0 with ram := [(0, 0x03), (768, 0x66)] }).map (fun t => (t.a, t.cycles)) =
      some (0x66, 5) := by decide

/-- AM6. -/
theorem test_AM6_ldaAbsX :
    (run [0xBD, 0xFF, 0xFF] { m0 with ram := [(0, 0x3A)], x := 1 }).map (fun t => (t.a, t.cycles)) =
      some (0x3A, 5) := by decide

/-- AM7. -/
theorem test_AM7_jmpInd :
    (run [0x6C, 0xFF, 0x02] { m0 with ram := [(512, 0x12), (767, 0x34), (768, 0x56)] }).map (fun t =>
        (t.pc, t.cycles)) =
      some (0x1234, 5) := by decide

/-- AM8. -/
theorem test_AM8_jmpInd :
    (run [0x6C, 0x00, 0x02] { m0 with ram := [(513, 0x80)] }).map (fun t => (t.pc, t.cycles)) =
      some (0x8000, 5) := by decide

/-- AM9. -/
theorem test_AM9_bcc :
    (run [0x90, 0xFE] m0).map (fun t => (t.pc, t.cycles)) =
      some (0x8000, 3) := by decide

/-- AM10. -/
theorem test_AM10_bmi :
    (run [0x30, 0x00] { m0 with p := { Flags.reset with n := true } }).map (fun t => (t.pc, t.cycles)) =
      some (0x8002, 3) := by decide

/-- AM11. -/
theorem test_AM11_staAbsY :
    (run [0x99, 0x00, 0x02] { m0 with ram := [(512, 0x77)] }).map (fun t => (t.ramAt 0x200, t.cycles)) =
      some (0x00, 5) := by decide

/-- AM12. -/
theorem test_AM12_nop :
    (run [0xEA] { m0 with pc := 0xFFFF }).map (fun t => (t.pc, t.cycles)) =
      some (0x0000, 2) := by decide

/-- LS1. -/
theorem test_LS1_ldaImm :
    (run [0xA9, 0x00] { m0 with p := { Flags.reset with n := true }, a := 7 }).map (fun t =>
        (t.a, t.p.z, t.p.n, t.pc, t.cycles)) =
      some (0, true, false, 0x8002, 2) := by decide

/-- LS2. -/
theorem test_LS2_ldaImm :
    (run [0xA9, 0x80] m0).map (fun t => (t.a, t.p.n, t.p.z, t.cycles)) =
      some (0x80, true, false, 2) := by decide

/-- LS3. -/
theorem test_LS3_ldyAbsX :
    (run [0xBC, 0xFF, 0x00] { m0 with x := 1, y := 9 }).map (fun t => (t.y, t.p.z, t.cycles)) =
      some (0, true, 5) := by decide

/-- LS4. -/
theorem test_LS4_staIndY :
    (run [0x91, 0x10] { m0 with ram := [(16, 0xF0), (17, 0x02)], a := 0x22, y := 0x20 }).map (fun t =>
        (t.ramAt 0x310, t.cycles)) =
      some (0x22, 6) := by decide

/-- LS5. -/
theorem test_LS5_stxZpY :
    (run [0x96, 0xFF] { m0 with x := 0x33, y := 0x02 }).map (fun t => (t.ramAt 0x01, t.cycles)) =
      some (0x33, 4) := by decide

/-- LS6. -/
theorem test_LS6_styAbs :
    (run [0x8C, 0x34, 0x12] { m0 with y := 0x44 }).map (fun t => (t.ramAt 0x234, t.cycles)) =
      some (0x44, 4) := by decide

/-- LS7. -/
theorem test_LS7_staZp :
    (run [0x85, 0x00] { m0 with ram := [(0, 0x11)], p := { Flags.reset with n := true } }).map (fun t =>
        (t.ramAt 0, t.p.z, t.p.n, t.cycles)) =
      some (0, false, true, 3) := by decide

/-- LS8. -/
theorem test_LS8_tax :
    (run [0xAA] { m0 with x := 5 }).map (fun t => (t.x, t.p.z, t.cycles)) =
      some (0, true, 2) := by decide

/-- LS9. -/
theorem test_LS9_tay :
    (run [0xA8] { m0 with a := 0x90 }).map (fun t => (t.y, t.p.n, t.cycles)) =
      some (0x90, true, 2) := by decide

/-- LS10. -/
theorem test_LS10_tsx :
    (run [0xBA] m0).map (fun t => (t.x, t.p.n, t.p.z, t.cycles)) =
      some (0xFD, true, false, 2) := by decide

/-- LS11. -/
theorem test_LS11_txa :
    (run [0x8A] { m0 with x := 0x7F }).map (fun t => (t.a, t.p.n, t.p.z, t.cycles)) =
      some (0x7F, false, false, 2) := by decide

/-- LS12. -/
theorem test_LS12_txs :
    (run [0x9A] { m0 with p := { Flags.reset with n := true } }).map (fun t => (t.sp, t.p.z, t.p.n, t.cycles)) =
      some (0, false, true, 2) := by decide

/-- LS13. -/
theorem test_LS13_tya :
    (run [0x98] { m0 with a := 1 }).map (fun t => (t.a, t.p.z, t.cycles)) =
      some (0, true, 2) := by decide

/-- AL5. -/
theorem test_AL5_adcImm :
    (run [0x69, 0x00] { m0 with a := 0x7F, p := { Flags.reset with c := true } }).map (fun t =>
        (t.a, t.p.n, t.p.v, t.p.c, t.cycles)) =
      some (0x80, true, true, false, 2) := by decide

/-- AL6. -/
theorem test_AL6_adcImm_decimal :
    (run [0x69, 0x01] { m0 with a := 0x09, p := { Flags.reset with d := true } }).map (fun t =>
        (t.a, t.p.d, t.cycles)) =
      some (0x0A, true, 2) := by decide

/-- AL8. -/
theorem test_AL8_sbcImm :
    (run [0xE9, 0x01] { m0 with a := 0x80, p := { Flags.reset with c := true } }).map (fun t =>
        (t.a, t.p.n, t.p.v, t.p.c, t.cycles)) =
      some (0x7F, false, true, true, 2) := by decide

/-- AL9. -/
theorem test_AL9_sbcImm :
    (run [0xE9, 0x00] m0).map (fun t => (t.a, t.p.c, t.cycles)) =
      some (0xFF, false, 2) := by decide

/-- AL14. -/
theorem test_AL14_andImm :
    (run [0x29, 0x0F] { m0 with a := 0xF0 }).map (fun t => (t.a, t.p.z, t.cycles)) =
      some (0, true, 2) := by decide

/-- AL15. -/
theorem test_AL15_andAbsY :
    (run [0x39, 0xFF, 0x02] { m0 with ram := [(768, 0x3C)], a := 0xFF, y := 1 }).map (fun t => (t.a, t.cycles)) =
      some (0x3C, 5) := by decide

/-- AL16. -/
theorem test_AL16_oraImm :
    (run [0x09, 0x80] { m0 with a := 0x01 }).map (fun t => (t.a, t.p.n, t.cycles)) =
      some (0x81, true, 2) := by decide

/-- AL17. -/
theorem test_AL17_eorImm :
    (run [0x49, 0xFF] { m0 with a := 0xFF }).map (fun t => (t.a, t.p.z, t.p.n, t.cycles)) =
      some (0, true, false, 2) := by decide

/-- AL19. -/
theorem test_AL19_cmpImm :
    (run [0xC9, 0x10] { m0 with a := 0x0F }).map (fun t => (t.a, t.p.z, t.p.c, t.p.n, t.cycles)) =
      some (0x0F, false, false, true, 2) := by decide

/-- AL20. -/
theorem test_AL20_cmpImm :
    (run [0xC9, 0xFF] { m0 with a := 0x01 }).map (fun t => (t.p.z, t.p.c, t.p.n, t.cycles)) =
      some (false, false, false, 2) := by decide

/-- AL22. -/
theorem test_AL22_cpxImm :
    (run [0xE0, 0x05] { m0 with x := 5 }).map (fun t => (t.p.z, t.p.c, t.cycles)) =
      some (true, true, 2) := by decide

/-- AL23. -/
theorem test_AL23_cpyImm :
    (run [0xC0, 0x06] { m0 with y := 5 }).map (fun t => (t.p.z, t.p.c, t.p.n, t.cycles)) =
      some (false, false, true, 2) := by decide

/-- AL24. -/
theorem test_AL24_bitZp :
    (run [0x24, 0x00] { m0 with ram := [(0, 0xC0)], a := 0x3F }).map (fun t => (t.a, t.p.z, t.p.n, t.p.v, t.cycles)) =
      some (0x3F, true, true, true, 3) := by decide

/-- AL25. -/
theorem test_AL25_bitAbs :
    (run [0x2C, 0x00, 0x02] { m0 with
        ram := [(512, 0x01)]
        a := 0x01
        p := { Flags.reset with n := true, v := true } }).map (fun t =>
        (t.p.z, t.p.n, t.p.v, t.cycles)) =
      some (false, false, false, 4) := by decide

/-- AL26. -/
theorem test_AL26_incZp :
    (run [0xE6, 0x10] { m0 with ram := [(16, 0xFF)], p := { Flags.reset with c := true } }).map (fun t =>
        (t.ramAt 0x10, t.p.z, t.p.n, t.p.c, t.cycles)) =
      some (0, true, false, true, 5) := by decide

/-- AL27. -/
theorem test_AL27_incAbsX :
    (run [0xFE, 0x00, 0x02] { m0 with ram := [(513, 0x7F)], x := 1 }).map (fun t =>
        (t.ramAt 0x201, t.p.n, t.cycles)) =
      some (0x80, true, 7) := by decide

/-- AL28. -/
theorem test_AL28_decZp :
    (run [0xC6, 0x10] m0).map (fun t => (t.ramAt 0x10, t.p.n, t.p.z, t.cycles)) =
      some (0xFF, true, false, 5) := by decide

/-- AL29. -/
theorem test_AL29_inx :
    (run [0xE8] { m0 with x := 0xFF }).map (fun t => (t.x, t.p.z, t.cycles)) =
      some (0, true, 2) := by decide

/-- AL30. -/
theorem test_AL30_iny :
    (run [0xC8] { m0 with y := 0x7F }).map (fun t => (t.y, t.p.n, t.cycles)) =
      some (0x80, true, 2) := by decide

/-- AL31. -/
theorem test_AL31_dex :
    (run [0xCA] { m0 with x := 1 }).map (fun t => (t.x, t.p.z, t.cycles)) =
      some (0, true, 2) := by decide

/-- AL32. -/
theorem test_AL32_dey :
    (run [0x88] m0).map (fun t => (t.y, t.p.n, t.cycles)) =
      some (0xFF, true, 2) := by decide

/-- SR1. -/
theorem test_SR1_aslA :
    (run [0x0A] { m0 with a := 0x81 }).map (fun t => (t.a, t.p.c, t.p.n, t.p.z, t.cycles)) =
      some (0x02, true, false, false, 2) := by decide

/-- SR2. -/
theorem test_SR2_lsrA :
    (run [0x4A] { m0 with a := 0x01, p := { Flags.reset with n := true } }).map (fun t =>
        (t.a, t.p.c, t.p.z, t.p.n, t.cycles)) =
      some (0, true, true, false, 2) := by decide

/-- SR3. -/
theorem test_SR3_rolA :
    (run [0x2A] { m0 with a := 0x80 }).map (fun t => (t.a, t.p.c, t.p.z, t.cycles)) =
      some (0, true, true, 2) := by decide

/-- SR4. -/
theorem test_SR4_rorA :
    (run [0x6A] { m0 with a := 0x01, p := { Flags.reset with c := true } }).map (fun t =>
        (t.a, t.p.c, t.p.n, t.cycles)) =
      some (0x80, true, true, 2) := by decide

/-- SR5. -/
theorem test_SR5_aslZp :
    (run [0x06, 0x10] { m0 with ram := [(16, 0x40)] }).map (fun t => (t.ramAt 0x10, t.p.n, t.p.c, t.cycles)) =
      some (0x80, true, false, 5) := by decide

/-- SR6. -/
theorem test_SR6_lsrZpX :
    (run [0x56, 0xFF] { m0 with ram := [(1, 0x80)], x := 2 }).map (fun t => (t.ramAt 0x01, t.p.c, t.p.n, t.cycles)) =
      some (0x40, false, false, 6) := by decide

/-- SR7. -/
theorem test_SR7_rolAbs :
    (run [0x2E, 0x00, 0x03] { m0 with ram := [(768, 0xFF)], p := { Flags.reset with c := true } }).map (fun t =>
        (t.ramAt 0x300, t.p.c, t.p.n, t.cycles)) =
      some (0xFF, true, true, 6) := by decide

/-- SR8. -/
theorem test_SR8_rorAbsX :
    (run [0x7E, 0x00, 0x02] { m0 with ram := [(514, 0x02)], x := 2 }).map (fun t =>
        (t.ramAt 0x202, t.p.c, t.cycles)) =
      some (0x01, false, 7) := by decide

/-- CT1. -/
theorem test_CT1_bpl :
    (run [0x10, 0x7F] { m0 with p := { Flags.reset with n := true } }).map (fun t => (t.pc, t.cycles)) =
      some (0x8002, 2) := by decide

/-- CT2. -/
theorem test_CT2_bvc :
    (run [0x50, 0x7F] m0).map (fun t => (t.pc, t.cycles)) =
      some (0x8081, 3) := by decide

/-- CT3. -/
theorem test_CT3_bvs :
    (run [0x70, 0x7F] m0).map (fun t => (t.pc, t.cycles)) =
      some (0x8002, 2) := by decide

/-- CT4. -/
theorem test_CT4_jmpAbs :
    (run [0x4C, 0x34, 0x12] m0).map (fun t => (t.pc, t.cycles)) =
      some (0x1234, 3) := by decide

/-- CT5. -/
theorem test_CT5_jsr :
    (run [0x20, 0x00, 0x90] m0).map (fun t => (t.ramAt 0x1FD, t.ramAt 0x1FC, t.sp, t.pc, t.cycles)) =
      some (0x80, 0x02, 0xFB, 0x9000, 6) := by decide

/-- CT6. -/
theorem test_CT6_rts :
    (run [0x60] { m0 with ram := [(508, 0x02), (509, 0x80)], sp := 0xFB }).map (fun t => (t.pc, t.sp, t.cycles)) =
      some (0x8003, 0xFD, 6) := by decide

/-- CT7. -/
theorem test_CT7_brk :
    (run [0x00] { m0 with pc := 0x8004 }).map (fun t =>
        ((t.ramAt 0x1FD, t.ramAt 0x1FC, t.ramAt 0x1FB, t.sp), (t.p.i, t.pc, t.cycles))) =
      some ((0x80, 0x06, 0x34, 0xFA), (true, 0x8000, 7)) := by decide

/-- CT9. -/
theorem test_CT9_brk_halt :
    (run [0x00] { m0 with pc := 0x8004, params := { Params.default with brkPolicy := .halt } }).map (fun t =>
        (t.pc, t.sp, t.ram, t.status, t.cycles)) =
      some (0x8006, 0xFD, ([] : Memory Byte), .halted, 7) := by decide

/-- CT10. -/
theorem test_CT10_rti :
    (run [0x40] { m0 with ram := [(507, 0xC3), (508, 0x34), (509, 0x12)], sp := 0xFA }).map (fun t =>
        ((t.pc, t.sp, t.p.n, t.p.v), (t.p.d, t.p.i, t.p.z, t.p.c), (t.p.b, t.cycles))) =
      some ((0x1234, 0xFD, true, true), (false, false, true, true), (false, 6)) := by decide

/-- CT11. -/
theorem test_CT11_rti :
    (run [0x40] { m0 with ram := [(507, 0x30), (509, 0x90)], sp := 0xFA }).map (fun t =>
        (t.pc, t.p.b, t.p.i, t.cycles)) =
      some (0x9000, true, false, 6) := by decide

/-- SF1. -/
theorem test_SF1_php :
    (run [0x08] { m0 with p := { Flags.reset with i := false, c := true } }).map (fun t =>
        (t.ramAt 0x1FD, t.sp, t.cycles)) =
      some (0x31, 0xFC, 3) := by decide

/-- SF2. -/
theorem test_SF2_php :
    (run [0x08] { m0 with
        p := { Flags.reset with n := true, v := true, d := true, z := true, c := true } }).map (fun t =>
        (t.ramAt 0x1FD, t.cycles)) =
      some (0xFF, 3) := by decide

/-- SF3. -/
theorem test_SF3_plp :
    (run [0x28] { m0 with ram := [(509, 0xC3)], sp := 0xFC }).map (fun t =>
        ((t.p.n, t.p.v, t.p.d), (t.p.i, t.p.z, t.p.c), (t.p.b, t.sp, t.cycles))) =
      some ((true, true, false), (false, true, true), (false, 0xFD, 4)) := by decide

/-- SF4. -/
theorem test_SF4_plp :
    (run [0x28] { m0 with ram := [(509, 0x10)], sp := 0xFC }).map (fun t => (t.p.b, t.p.n, t.p.i, t.cycles)) =
      some (true, false, false, 4) := by decide

/-- SF5. -/
theorem test_SF5_clc :
    (run [0x18] { m0 with p := { Flags.reset with c := true } }).map (fun t => (t.p.c, t.cycles)) =
      some (false, 2) := by decide

/-- SF6. -/
theorem test_SF6_cld :
    (run [0xD8] { m0 with p := { Flags.reset with d := true } }).map (fun t => (t.p.d, t.cycles)) =
      some (false, 2) := by decide

/-- SF7. -/
theorem test_SF7_cli :
    (run [0x58] m0).map (fun t => (t.p.i, t.cycles)) =
      some (false, 2) := by decide

/-- SF8. -/
theorem test_SF8_clv :
    (run [0xB8] { m0 with p := { Flags.reset with v := true } }).map (fun t => (t.p.v, t.cycles)) =
      some (false, 2) := by decide

/-- SF9. -/
theorem test_SF9_sec :
    (run [0x38] m0).map (fun t => (t.p.c, t.cycles)) =
      some (true, 2) := by decide

/-- SF10. -/
theorem test_SF10_sed :
    (run [0xF8] m0).map (fun t => (t.p.d, t.cycles)) =
      some (true, 2) := by decide

/-- SF11. -/
theorem test_SF11_sei :
    (run [0x78] { m0 with p := { Flags.reset with i := false } }).map (fun t => (t.p.i, t.cycles)) =
      some (true, 2) := by decide

/-- SF12. -/
theorem test_SF12_nop :
    (run [0xEA] { m0 with a := 1 }).map (fun t => (t.pc, t.a, t.cycles)) =
      some (0x8001, 1, 2) := by decide

/-- BU3. -/
theorem test_BU3_staAbs :
    (run [0x8D, 0x00, 0x80] m0).map (fun t => (t.cart, t.ram, t.cycles)) =
      some (rom, ([] : Memory Byte), 4) := by decide

/-- PR3. -/
theorem test_PR3_staAbs_ppuctrl :
    (run [0x8D, 0x00, 0x20] { m0 with a := 0x03 }).map (fun t => (t.ppu.ctrl, t.ppu.t)) =
      some (0x03, 0x0C00) := by decide

/-- PR7 (by STX). -/
theorem test_PR7_stxAbs_ppudata :
    (run [0x8E, 0x07, 0x20] { m0 with x := 0x12, ppu := { Ppu.reset with ctrl := 0x04, v := 0x2000 } }).map (fun t =>
        (Memory.read 0 t.ppu.vram 0, t.ppu.v, t.cycles)) =
      some (0x12, 0x2020, 4) := by decide

/-- PR10 (by LDX). -/
theorem test_PR10_ldxAbs_ppudata :
    (run [0xAE, 0x07, 0x20] { m0 with ppu := { Ppu.reset with v := 0x0010, readBuffer := 0x44 } }).map (fun t =>
        (t.x, t.ppu.readBuffer, t.ppu.v, t.cycles)) =
      some (0x44, 0, 0x0011, 4) := by decide

/-- PR14 (by LDY). -/
theorem test_PR14_ldyAbs_oamdata :
    (run [0xAC, 0x04, 0x20] { m0 with ppu := { Ppu.reset with oam := [(0, 0x66)] } }).map (fun t =>
        (t.y, t.ppu.oamAddr)) =
      some (0x66, 0) := by decide

/-- LS14: the value is the first byte drawn, whatever it is. -/
theorem test_LS14_ldaAbs_sound :
    (run [0xAD, 0x17, 0x40] m0).map (fun t => (t.a, t.draws)) = some (Config.draw 0, 1) := rfl

/-- FT2: the read faults. -/
theorem test_FT2_ldaAbs_unmapped : exec (.ldaAbs 0x4018) m0 = .fault (.unmappedAddress 0x4018) := rfl

/-- FT3: the write faults (by STX). -/
theorem test_FT3_stxAbs_unmapped : exec (.stxAbs 0x401F) m0 = .fault (.unmappedAddress 0x401F) := rfl

/-! ### The bus and its devices -/

/-- BU1: one bank of PRG is seen twice. -/
theorem test_BU1_prg_mirror :
    State.prgAt { m0 with cart := { rom with prg := [(0, 0xAD)] } } 0xC000 = 0xAD := by decide

/-- BU2: two banks are not. -/
theorem test_BU2_prg_two_banks :
    State.prgAt { m0 with cart := { rom with banks := .two, prg := [(0, 0xAD), (0x4000, 0x77)] } } 0xC000 = 0x77 := by
  decide

/-- BU6, with three bytes of the page not 0: OAM DMA starts at `oam_addr` and wraps. -/
theorem test_BU6_oam_dma :
    (write 0x4014 0x02 { m0 with
      ram := [(0x200, 0x11), (0x2EF, 0xEF), (0x2FF, 0xFF)]
      ppu := { Ppu.reset with oamAddr := 0x10 } }).toOption.map (fun t =>
        (Memory.read 0 t.ppu.oam 0x10, Memory.read 0 t.ppu.oam 0xFF, Memory.read 0 t.ppu.oam 0x0F, t.ppu.oamAddr,
          t.extraCycles)) = some (0x11, 0xEF, 0xFF, 0x10, 513) := by decide +kernel

/-- FT5: DMA from page 0x40 faults. -/
theorem test_FT5_dma_page_40 : write 0x4014 0x40 m0 = .error (.unmappedAddress 0x4018) := rfl

/-- PR1: the status flags over five open-bus bits; vblank and `w` clear. -/
theorem test_PR1_status :
    ((read 0x2002 { m0 with ppu := { Ppu.reset with vblank := true, w := true } }).toOption.map
      (fun r => (r.2.ppu.vblank, r.2.ppu.w))) = some (false, false) ∧
    Ppu.statusByte { Ppu.reset with vblank := true } 0xFF = 0x9F := ⟨rfl, by decide⟩

/-- PR4: the two PPUSCROLL writes. -/
theorem test_PR4_scroll :
    let u := Ppu.reset.writeScroll 0x7D
    (u.t, u.x, u.w) = (0x000F, 5, true) ∧ ((u.writeScroll 0x5E).t, (u.writeScroll 0x5E).w) = (0x616F, false) := by
  decide

/-- PR5 and PR6: the two PPUADDR writes. -/
theorem test_PR5_addr :
    let u := Ppu.reset.writeAddr 0x21
    (u.t, u.v, u.w) = (0x2100, 0, true) ∧ ((u.writeAddr 0x08).t, (u.writeAddr 0x08).v) = (0x2108, 0x2108) ∧
    (Ppu.writeAddr { Ppu.reset with t := 0x7FFF } 0xFF).t = 0x3FFF := by decide

/-- PR8: `v` keeps 15 bits, the access uses 14. -/
theorem test_PR8_data_write :
    let u := Ppu.writeData rom { Ppu.reset with v := 0x3FFF } 0x07
    (Memory.read 0 u.palette 0x1F, u.v) = (0x07, 0x4000) := by decide

/-- PR11: a palette read is not buffered; the buffer takes the nametable byte beneath. -/
theorem test_PR11_data_read :
    let u : Ppu := { Ppu.reset with v := 0x3F00, palette := [(0, 0x3F)], vram := [(0x700, 0x99)] }
    Ppu.dataByte rom u 0xC0 = 0xFF ∧ (Ppu.afterDataRead rom u).readBuffer = 0x99 ∧
      (Ppu.afterDataRead rom u).v = 0x3F01 := by decide

/-- PR14: OAMDATA writes at `oam_addr` and advances it. -/
theorem test_PR14_oamdata :
    let u := Ppu.writeOamData { Ppu.reset with oamAddr := 0xFF } 0x66
    (Memory.read 0 u.oam 0xFF, u.oamAddr) = (0x66, 0x00) := by decide

/-- PS1 to PS3: the palette's mirrors. -/
theorem test_PS_palette :
    Memory.read 0 (ppuWrite rom Ppu.reset 0x3F10 0xFF).palette 0 = 0x3F ∧
    ppuRead rom (ppuWrite rom Ppu.reset 0x3F1C 0x05) 0 0x3F0C = 0x05 ∧
    ppuRead rom (ppuWrite rom Ppu.reset 0x3F21 0x09) 0 0x3F01 = 0x09 := by decide

/-- PS4, PS5, PS8: vertical mirroring. -/
theorem test_PS_vertical :
    ppuRead rom (ppuWrite rom Ppu.reset 0x2000 0xA5) 0 0x2800 = 0xA5 ∧
    ppuRead rom (ppuWrite rom Ppu.reset 0x2000 0xA5) 0 0x2400 = 0 ∧
    ppuRead rom (ppuWrite rom Ppu.reset 0x2C05 0xA5) 0 0x2405 = 0xA5 := by decide

/-- PS6, PS7, PS9: horizontal mirroring. -/
theorem test_PS_horizontal :
    let c := { rom with mirroring := .horizontal }
    ppuRead c (ppuWrite c Ppu.reset 0x2000 0xA5) 0 0x2400 = 0xA5 ∧
    ppuRead c (ppuWrite c Ppu.reset 0x2000 0xA5) 0 0x2800 = 0 ∧
    ppuRead c (ppuWrite c Ppu.reset 0x3C05 0xA5) 0 0x2805 = 0xA5 := by decide

/-- CO1: the strobe, then ten reads of A and Start. -/
theorem test_CO1_controller :
    let c := ((setButtons 0x09 m0).ctl.afterStrobe 1).afterStrobe 0
    (List.range 10).map (fun k => (afterReads k c).bit) =
      [true, false, false, true, false, false, false, false, true, true] := by decide

/-- CO2: while the strobe is 1, button A. -/
theorem test_CO2_controller :
    let c := (setButtons 0x02 m0).ctl.afterStrobe 1
    (List.range 3).map (fun k => (afterReads k c).bit) = [false, false, false] := by decide

/-! ### The picture unit's ticks -/

/-- T4: the tick to (241, 1). -/
theorem test_T4_vblank :
    let r := tick rom true { Ppu.reset with ctrl := 0x80, scanline := 241 }
    (r.ppu.dot, r.ppu.vblank, r.ppu.nmiPending, r.nmiNew, r.frameDone) = (1, true, true, true, false) := by decide

/-- T4: with PPUCTRL bit 7 clear, vblank and no NMI. -/
theorem test_T4_no_nmi :
    let r := tick rom true { Ppu.reset with scanline := 241 }
    (r.ppu.vblank, r.ppu.nmiPending, r.nmiNew) = (true, false, false) := by decide

/-- R382: the tick to (261, 1). -/
theorem test_prerender_clear :
    let r := tick rom true { Ppu.reset with scanline := 261, vblank := true, nmiPending := true }
    (r.ppu.vblank, r.ppu.nmiPending) = (false, false) := by decide

/-- T5.2: an odd frame with the background on skips (261, 340). -/
theorem test_T5_2_skip :
    let r := tick rom true { Ppu.reset with mask := 0x08, scanline := 261, dot := 339, oddFrame := true }
    (r.ppu.scanline, r.ppu.dot, r.ppu.oddFrame, r.frameDone) = (0, 0, false, true) := by decide

/-- T5.3: without the policy it does not. -/
theorem test_T5_3_no_skip :
    let r := tick rom false { Ppu.reset with mask := 0x08, scanline := 261, dot := 339, oddFrame := true }
    (r.ppu.scanline, r.ppu.dot, r.ppu.oddFrame, r.frameDone) = (261, 340, true, false) := by decide

/-- P5: the pixel at x = 103 of line 0 is the backdrop and the one at x = 104 palette[1]: a bit has come to bit 15. -/
theorem test_P5_pixels :
    let u : Ppu := { Ppu.reset with mask := 0x0A, palette := [(1, 0x21)], shPatLo := 0x3FC0, dot := 103 }
    let r := ticks rom true 2 u
    (r.ppu.frame.pixelAt 0 103, r.ppu.frame.pixelAt 0 104) = (0x000, 0x021) := by decide

/-- R375, R376: coarse X and Y at their last values. -/
theorem test_scroll_wraps :
    incCoarseX 0x001F = 0x0400 ∧ incCoarseX 0x041F = 0x0000 ∧ incY 0x73A0 = 0x0800 ∧ incY 0x73E0 = 0x0000 ∧
    incY 0x0000 = 0x1000 := by decide

/-! ### The driver step -/

/-- The default machine with a program at 0x8000. -/
def prog (bytes : List Byte) : State :=
  { m0 with cart := { rom with prg := Memory.ofList 0 bytes.length bytes ++ rom.prg } }

/-- The state a step answers. -/
def next? (s : State) : Option State :=
  match step s with
  | .next t => some t
  | _ => none

/-- P1, its first step: `LDA #$05`, and six dots. -/
theorem test_P1_first_step :
    (next? (prog [0xA9, 0x05, 0x85, 0x00, 0x00])).map (fun t => (t.a, t.pc, t.cyclesTotal, t.ppu.scanline, t.ppu.dot)) =
      some (0x05, 0x8002, 9, 0, 6) := by decide +kernel

/-- P1, its last step: BRK under the halt policy stops the run. -/
theorem test_P1_last_step :
    (next? { prog [0x00] with params := { Params.default with brkPolicy := .halt } }).map (fun t =>
        (t.status, t.pc, t.ppu.dot, t.cyclesTotal)) = some (.halted, 0x8002, 21, 14) := by decide +kernel

/-- IN1: the IRQ is taken before the instruction at PC. -/
theorem test_IN1_irq :
    (next? { prog [0xEA] with irqLine := true, p := { Flags.reset with i := false } }).map (fun t =>
        ((t.ramAt 0x1FD, t.ramAt 0x1FC, t.ramAt 0x1FB, t.sp), t.p.i, t.pc, t.ppu.dot, t.irqLine)) =
      some ((0x80, 0x00, 0x30, 0xFA), true, 0x8000, 21, true) := by decide +kernel

/-- IN2: not while I is set. -/
theorem test_IN2_irq_masked : (next? { prog [0xEA] with irqLine := true }).map (·.pc) = some 0x8001 := by decide

/-- IN3: NMI goes before IRQ; the pushed bit 4 follows the parameter. -/
theorem test_IN3_nmi_first :
    (next? { prog [0xEA] with
      irqLine := true, nmiRequest := true, p := { Flags.reset with i := false }
      params := { Params.default with pushBOnHwInterrupt := false } }).map (fun t =>
        (t.ramAt 0x1FB, t.nmiRequest, t.p.i)) = some (0x20, false, true) := by decide

/-- IN4: I does not mask NMI. -/
theorem test_IN4_nmi :
    (next? { prog [0xEA] with
      nmiRequest := true
      p := { Flags.reset with n := true, c := true } }).map (·.ramAt 0x1FB) = some 0xB5 := by decide

/-- FT1: the undefined opcode faults, and the state is as before but for the status (and the model's own count). -/
theorem test_FT1_undefined :
    step (prog [0x02]) = .fault (.decodeError 0x8000) ∧
    driverStep (prog [0x02]) =
      { prog [0x02] with status := .faulted (.decodeError 0x8000), draws := Config.drawsPerStep } := ⟨rfl, rfl⟩

/-- R17: what a faulted step drew is not drawn again after a host reset. Here the fetch at 0x4017 draws byte 0. -/
theorem test_R17_fault_then_reset :
    read 0x4017 m0 = .ok (Config.draw 0, { m0 with draws := 1 }) ∧
    (read 0x5000 (hostReset (m0.faultedBy (.decodeError 0x4017)))).toOption.map (·.1) =
      some (Config.draw 261) := ⟨rfl, rfl⟩

/-- The cycles of the machine after an instruction. -/
def cyclesAfter (i : Instr) (s : State) : Option Nat :=
  match exec i s with
  | .next t => some t.cycles
  | _ => none

/-- R280's formula compares the page of the next instruction: a branch to itself, and R284's corner case (log 24). -/
theorem test_R280_pages :
    cyclesAfter (.bne 0xFE) { m0 with pc := 0x8000 } = some 3 ∧ cyclesAfter (.bne 0xFE) { m0 with pc := 0x80FE } = some 4 ∧
    cyclesAfter (.bmi 0x80) { m0 with pc := 0x8100, p := { Flags.reset with n := true } } = some 4 := by decide

/-- FT4: the fetch at 0x4018 faults. -/
theorem test_FT4_fetch : step { m0 with pc := 0x4018 } = .fault (.unmappedAddress 0x4018) := rfl

/-- RS2: the host's reset of a faulted machine. -/
theorem test_RS2_host_reset :
    let t := hostReset { m0 with
      status := .faulted (.decodeError 0x8000), sp := 0x10, a := 7, p := { Flags.reset with c := true } }
    (t.status, t.sp, t.p.i, t.p.c, t.a, t.pc, t.cyclesTotal) = (.running, 0x0D, true, false, 7, 0x8000, 14) := by decide

/-- RS3: SP wraps. -/
theorem test_RS3_host_reset : (hostReset { m0 with sp := 0x01 }).sp = 0xFE := by decide

/-- RS1: power-on reads the reset vector. -/
theorem test_RS1_power_on :
    let s := powerOn rom Params.default InitParams.zero
    (s.a, s.sp, s.pc, s.p.i, s.cyclesTotal, s.status) = (0, 0xFD, 0x8000, true, 7, .running) := by decide

/-- An instruction placed for the first step after reset is run by it: `LDA $1234,X` of zeros. -/
theorem test_withFetchWord :
    (next? (State.reset.withFetchWord 24 0b00010010_00110100_10111101)).map (fun t => (t.pc, t.p.z, t.cycles)) =
      some (0x0003, true, 4) := by decide

/-! ### Witnesses: the hypotheses of every statement can be met, clause by clause, at the ends of their ranges -/

/-- The outcome is a next state. -/
def completes (o : Host.Outcome State Fault Refusal) : Bool :=
  match o with
  | .next _ => true
  | _ => false

/-- The default machine with A, X and Y all 0x40. -/
def m40 : State := { m0 with a := 0x40, x := 0x40, y := 0x40 }

theorem m0_inv : m0.Inv where
  ram := rfl
  ppu := ⟨rfl, rfl, rfl, rfl, (by intro f hf; cases hf), by decide, by decide, rfl, rfl⟩
  cart := ⟨rfl, rfl⟩
  frames := by intro f hf; cases hf
  latch := by intro h; cases h
  nmiTaken := rfl
  frameTaken := rfl

/-- An accepted image of one bank, and one of two. -/
theorem images_ingest : (∃ c, ingest (image 0 16384 8192 .vertical) = .ok c) ∧
    ∃ c, ingest (image 0 32768 8192 .horizontal) = .ok c := by
  constructor <;> refine ⟨_, (ingest_ok_iff _ _).2 ⟨?_, rfl⟩⟩ <;>
    simp only [CartridgeImage.check, image, List.length_replicate] <;> decide

theorem test_witness_EncodeOfDecodeIsIdentity : decode [0xA9, 0x05, 0x85] = .ok (.ldaImm 0x05, [0x85]) := rfl

/-- A machine with these three bytes at address 0, and PC there. -/
def inRam (b0 b1 b2 : Byte) : State := { State.reset with ram := [(0, b0), (1, b1), (2, b2)] }

theorem test_witness_UndefinedOpcodesFault :
    (runsInstruction (inRam 0x02 0 0) ∧ read 0x0000 (inRam 0x02 0 0) = .ok (0x02, inRam 0x02 0 0)) ∧
    (undefinedBytes.contains 0x02 && undefinedBytes.contains 0xFF && !undefinedBytes.contains 0xFE) = true :=
  ⟨⟨⟨rfl, rfl, .inl rfl⟩, rfl⟩, by decide⟩

theorem test_witness_StepRunsDecodedInstruction :
    runsInstruction (inRam 0xAD 0x34 0x12) ∧ bytesAtPc (inRam 0xAD 0x34 0x12) (encode (.ldaAbs 0x1234)) := by
  refine ⟨⟨rfl, rfl, .inl rfl⟩, ?_⟩
  intro k b h
  rcases k with _ | _ | _ | k
  · cases h; rfl
  · cases h; rfl
  · cases h; rfl
  · cases h

theorem test_witness_FetchGoesThroughTheBus :
    (runsInstruction (inRam 0xAD 0x34 0x12) ∧
      readBytes 3 0x0000 (inRam 0xAD 0x34 0x12) = .ok (encode (.ldaAbs 0x1234), inRam 0xAD 0x34 0x12)) ∧
    (runsInstruction { m0 with pc := 0x401F } ∧ read 0x401F m0 = .error (.unmappedAddress 0x401F)) ∧
    (unmapped 0x4018 = true ∧ unmapped 0x401F = true) ∧
    runsInstruction { m0 with pc := 0x4017 } ∧
    (inPpuWindow 0x2002 ∧ inPpuWindow 0x3FFA ∧ ∃ bytes t, readBytes 1 0x3FFA m0 = .ok (bytes, t)) ∧
    (0x4020 ≤ (0x4020 : Addr).toNat ∧ (0x7FFF : Addr).toNat < 0x8000) := by
  refine ⟨⟨⟨rfl, rfl, .inl rfl⟩, rfl⟩, ⟨⟨rfl, rfl, .inl rfl⟩, rfl⟩, ⟨rfl, rfl⟩, ⟨rfl, rfl, .inl rfl⟩,
    ⟨?_, ?_, _, _, rfl⟩, ?_⟩
  all_goals first | (unfold inPpuWindow; decide) | decide

theorem test_witness_OnlyNamedFaultsOccur :
    (inRam 0x02 0 0).status = .running ∧ step (inRam 0x02 0 0) = .fault (.decodeError 0x0000) ∧
    step (inRam 0xAD 0x18 0x40) = .fault (.unmappedAddress 0x4018) := ⟨rfl, rfl, rfl⟩

theorem test_witness_FaultRestoresTheState :
    (inRam 0x8D 0x1F 0x40).status = .running ∧ step (inRam 0x8D 0x1F 0x40) = .fault (.unmappedAddress 0x401F) :=
  ⟨rfl, rfl⟩

/-- A table of read-class forms: some form reads just below and just above the unmapped addresses, and some at either
end of them. -/
def readWitness (forms : Byte → Byte → Byte → List ReadForm) : Bool :=
  ((forms 0 0x17 0x40).any fun f => mapped f.operand m0 && f.bytes.length == 3) &&
  ((forms 0 0x20 0x40).any fun f => mapped f.operand m0 && f.bytes.length == 3) &&
  ((forms 0 0x18 0x40).any fun f => !mapped f.operand m0) && ((forms 0 0x1F 0x40).any fun f => !mapped f.operand m0)

theorem test_witness_LoadsSetRegisterAndNZ : [ldaForms, ldxForms, ldyForms].all readWitness = true := by decide
theorem test_witness_AdcAddsWithCarry : readWitness adcForms = true := by decide
theorem test_witness_SbcAddsTheComplement : readWitness sbcForms = true := by decide
theorem test_witness_LogicCombinesWithA : [andForms, oraForms, eorForms].all readWitness = true := by decide
theorem test_witness_ComparesSetNZC : [cmpForms, cpxForms, cpyForms].all readWitness = true := by decide
theorem test_witness_BitTestsMemory : readWitness bitForms = true := by decide

/-- A table of stores of 0x40: some form stores at either end of RAM and past the unmapped addresses, some faults at
either end of them, and some starts a DMA from page 0x40. -/
def storeWitness (forms : Byte → Byte → Byte → List MemForm) : Bool :=
  ((forms 0 0x00 0x00).any fun f => !storeFaults (f.operand.ea m0) 0x40) &&
  ((forms 0 0xFF 0x1F).any fun f => !storeFaults (f.operand.ea m0) 0x40) &&
  ((forms 0 0x20 0x40).any fun f => !storeFaults (f.operand.ea m0) 0x40 && f.bytes.length == 3) &&
  ((forms 0 0x18 0x40).any fun f => unmapped (f.operand.ea m0)) &&
  ((forms 0 0x1F 0x40).any fun f => unmapped (f.operand.ea m0)) &&
  ((forms 0 0x14 0x40).any fun f => f.operand.ea m0 == 0x4014#16 && storeFaults (f.operand.ea m0) 0x40)

theorem test_witness_StoresWriteTheRegister :
    [staForms, stxForms, styForms].all storeWitness = true ∧ (m40.a, m40.x, m40.y) = (0x40, 0x40, 0x40) := by decide
theorem test_witness_IncDecMemory : [incForms, decForms].all storeWitness = true := by decide
theorem test_witness_ShiftsAndRotates : [aslForms, lsrForms, rolForms, rorForms].all storeWitness = true := by decide

theorem test_witness_EffectiveAddresses : (opTable.any fun row => row.mode == .zeroPageY) = true := by decide

theorem test_witness_CarryAndOverflowMeaning :
    ((adcForms 1 0 0).all fun f => completes (exec f.instr m0)) = true ∧
    ((sbcForms 1 0 0).all fun f => completes (exec f.instr m0)) = true := by decide +kernel

/-- No flag set, and every flag set. -/
def noFlags : Flags := { n := false, v := false, b := false, d := false, i := false, z := false, c := false }
def allFlags : Flags := { n := true, v := true, b := true, d := true, i := true, z := true, c := true }

theorem test_witness_BranchesGoToTheirTarget :
    branchForms.length = 8 ∧ (branchForms.all fun f => f.cond noFlags != f.cond allFlags) = true := by decide

theorem test_witness_JumpsSetPc :
    (unmapped (hiLo 0x02 0xFF) = false ∧ unmapped (hiLo 0x02 (0xFF + 1)) = false) ∧
    (unmapped (hiLo 0x40 0x18) = true ∧ unmapped (hiLo 0x40 0x1F) = true) ∧
    (unmapped (hiLo 0x40 0x17) = false ∧ unmapped (hiLo 0x40 (0x17 + 1)) = true) := by decide

theorem test_witness_BrkInterruptsOrHalts :
    m0.params.brkPolicy = .vector ∧ ({ m0.params with brkPolicy := .halt } : Params).brkPolicy = .halt := ⟨rfl, rfl⟩

theorem test_witness_DecimalFlagIsIgnored : (adcForms 0 0 0 ++ sbcForms 0 0 0).length = 16 := by decide

/-- Every instruction of a table completes on the default machine. -/
theorem test_witness_ReadClassFrame :
    ([ldaForms, ldxForms, ldyForms, adcForms, sbcForms, andForms, oraForms, eorForms, cmpForms, cpxForms, cpyForms,
      bitForms].all fun forms => (forms 0 0 0).all fun f => completes (exec f.instr m0)) = true ∧
    (¬(0x2000 ≤ (0x1FFF : Addr).toNat) ∧ ¬((0x4000 : Addr).toNat < 0x4000)) := by decide +kernel

theorem test_witness_StoreFrame :
    ([staForms, stxForms, styForms].all fun forms => (forms 0 0 0).all fun f => completes (exec f.instr m0)) = true ∧
    ((0x0001 : Addr).toNat % 0x800 ≠ (0x0000 : Addr).toNat % 0x800) := by decide +kernel

theorem test_witness_ModifyFrame :
    ([incForms, decForms, aslForms, lsrForms, rolForms, rorForms].all fun forms =>
      (forms 0 0 0).all fun f => completes (exec f.instr m0)) = true ∧
    ((0x0001 : Addr).toNat % 0x800 ≠ (0x0000 : Addr).toNat % 0x800) := by decide +kernel

theorem test_witness_PushFrame :
    (([.pha, .php, .jsr 0, .brk] : List Instr).all fun i => completes (exec i m0)) = true ∧
    (∀ k < 3, ¬SameRamByte 0x0000 (stackAddr (m0.sp - BitVec.ofNat 8 k))) := by
  refine ⟨by decide, ?_⟩
  unfold SameRamByte
  decide

theorem test_witness_RegisterInstructionFrame :
    (([.tax, .tay, .tsx, .txa, .txs, .tya, .inx, .iny, .dex, .dey, .aslA, .lsrA, .rolA, .rorA, .bcc 0, .bcs 0, .beq 0,
      .bmi 0, .bne 0, .bpl 0, .bvc 0, .bvs 0, .jmpAbs 0, .jmpInd 0, .rts, .rti, .pla, .plp, .clc, .cld, .cli, .clv,
      .sec, .sed, .sei, .nop] : List Instr).all fun i => completes (exec i m0)) = true := by decide +kernel

/-- What differs after an instruction on a machine. -/
def differs (i : Instr) (s : State) (d : State → State → Bool) : Bool :=
  match exec i s with
  | .next t => d s t
  | _ => false

theorem test_witness_WritersOfRegistersAndFlags :
    differs (.ldaImm 1) m0 (fun s t => t.a != s.a) = true ∧ differs .inx m0 (fun s t => t.x != s.x) = true ∧
    differs .iny m0 (fun s t => t.y != s.y) = true ∧ differs .txs m0 (fun s t => t.sp != s.sp) = true ∧
    differs .php m0 (fun s t => t.ram != s.ram) = true ∧
    differs .plp { m0 with sp := 0xFC, ram := [(0x1FD, 0xFB)] } (fun s t =>
      t.p.n != s.p.n && t.p.v != s.p.v && t.p.b != s.p.b && t.p.d != s.p.d && t.p.i != s.p.i && t.p.z != s.p.z &&
        t.p.c != s.p.c) = true := by decide

theorem test_witness_StepLeavesHostInputs :
    (next? (prog [0xEA])).isSome = true ∧ m0.status = .running ∧
    step { m0 with pc := 0x4018 } = .fault (.unmappedAddress 0x4018) := ⟨by decide, rfl, rfl⟩

theorem test_witness_RamMirrors :
    ((0x1FFF : Addr).toNat < 0x2000 ∧ (0x1FFF : Addr).toNat % 0x800 = (0x07FF : Addr).toNat % 0x800) ∧
    ((0x0000 : Addr).toNat % 0x800 = (0x1800 : Addr).toNat % 0x800) ∧
    ((0x0000 : Addr).toNat % 0x800 ≠ (0x1FFF : Addr).toNat % 0x800) := by decide

/-- Images that fail one check each, at the ends of the sizes, beside the two accepted ones. -/
theorem test_witness_PrgReadsTheImage_checks :
    ((image 1 16384 8192 .vertical).mapper ≠ 0 ∧ (image 0 16384 8192 .other).mapper = 0) ∧
    (∀ n ∈ [0, 16383, 16385, 32767, 32769], (image 0 n 8192 .vertical).prg.length ≠ 16384 ∧
      (image 0 n 8192 .vertical).prg.length ≠ 32768) ∧
    (∀ n ∈ [0, 8191, 8193], (image 0 16384 n .vertical).chr.length ≠ 8192) ∧
    (image 0 16384 8192 .other).prg.length = 16384 ∧ (image 0 16384 8192 .other).chr.length = 8192 ∧
    ¬((image 0 16384 8192 .other).layout = .horizontal ∨ (image 0 16384 8192 .other).layout = .vertical) := by
  simp only [image, List.length_replicate]; decide

theorem test_witness_PrgReadsTheImage :
    (∃ (img : CartridgeImage) (s : State), ingest img = .ok s.cart ∧ s.cart.banks = .one) ∧
    (∃ (img : CartridgeImage) (s : State), ingest img = .ok s.cart ∧ s.cart.banks = .two) ∧
    (0x8000 ≤ (0x8000 : Addr).toNat ∧ 0x8000 ≤ (0xFFFF : Addr).toNat) := by
  obtain ⟨⟨c, hc⟩, d, hd⟩ := images_ingest
  refine ⟨⟨_, { m0 with cart := c }, hc, ?_⟩, ⟨_, { m0 with cart := d }, hd, ?_⟩, by decide⟩
  · rw [((ingest_ok_iff _ _).1 hc).2]
    simp only [image, banksOf, List.length_replicate]; rfl
  · rw [((ingest_ok_iff _ _).1 hd).2]
    simp only [image, banksOf, List.length_replicate]; rfl

/-- The ranges of addresses a clause speaks of, at their ends. -/
theorem test_witness_BusOutsideMemory :
    (([0x2000, 0x2001, 0x2003, 0x2005, 0x2006, 0x3FF8, 0x3FFE] : List Addr).all fun a => decide
      (0x2000 ≤ a.toNat ∧ a.toNat < 0x4000 ∧ (a.toNat % 8 = 0 ∨ a.toNat % 8 = 1 ∨ a.toNat % 8 = 3 ∨ a.toNat % 8 = 5 ∨
        a.toNat % 8 = 6))) = true ∧
    (([0x4000, 0x4015, 0x4017, 0x4020, 0x7FFF] : List Addr).all fun a => decide
      ((0x4000 ≤ a.toNat ∧ a.toNat ≤ 0x4017 ∧ a.toNat ≠ 0x4016) ∨ (0x4020 ≤ a.toNat ∧ a.toNat ≤ 0x7FFF))) = true ∧
    (([0x4000, 0x4013, 0x4015, 0x4017, 0x4020, 0xFFFF] : List Addr).all fun a => decide
      ((0x4000 ≤ a.toNat ∧ a.toNat ≤ 0x4017 ∧ a.toNat ≠ 0x4014 ∧ a.toNat ≠ 0x4016) ∨ 0x4020 ≤ a.toNat)) = true ∧
    (([0x4018, 0x401F] : List Addr).all fun a => decide (0x4018 ≤ a.toNat ∧ a.toNat ≤ 0x401F)) = true ∧
    (∀ a, runsInstruction { m0 with pc := a } ∧ ({ m0 with pc := a } : State).pc = a) :=
  ⟨by decide, by decide, by decide, by decide, fun _ => ⟨⟨rfl, rfl, .inl rfl⟩, rfl⟩⟩

theorem test_witness_OamDmaCopiesThePage :
    (([0x00, 0x1F, 0x80, 0xFF] : List Byte).all fun d => decide (d ≠ 0x40 ∧ (d.toNat < 0x20 ∨ 0x80 ≤ d.toNat))) = true ∧
    (([0x41, 0x7F] : List Byte).all fun d => decide (0x41 ≤ d.toNat ∧ d.toNat < 0x80)) = true ∧
    (([0x20, 0x3F] : List Byte).all fun d => decide (0x20 ≤ d.toNat ∧ d.toNat < 0x40)) = true ∧
    (([2, 0xFA] : List Byte).all fun i => i.toNat % 8 == 2) = true ∧
    (([4, 0xFC] : List Byte).all fun i => i.toNat % 8 == 4) = true := by decide

/-- Both ends of the register window, with all eight registers at each. -/
theorem test_witness_PpuRegisterWrites :
    (∀ k < 8, inPpuWindow (BitVec.ofNat 16 (0x2000 + k)) ∧ (BitVec.ofNat 16 (0x2000 + k)).toNat % 8 = k ∧
      inPpuWindow (BitVec.ofNat 16 (0x3FF8 + k)) ∧ (BitVec.ofNat 16 (0x3FF8 + k)).toNat % 8 = k) ∧
    Ppu.reset.w = false ∧ ({ Ppu.reset with w := true } : Ppu).w = true := by
  unfold inPpuWindow
  decide

theorem test_witness_StatusReadClearsVblank :
    (inPpuWindow 0x2002 ∧ (0x2002 : Addr).toNat % 8 = 2) ∧ inPpuWindow 0x3FFA ∧ (0x3FFA : Addr).toNat % 8 = 2 := by
  unfold inPpuWindow
  decide

theorem test_witness_DataPorts :
    (inPpuWindow 0x2004 ∧ (0x2004 : Addr).toNat % 8 = 4) ∧ (inPpuWindow 0x3FFF ∧ (0x3FFF : Addr).toNat % 8 = 7) ∧
    ((0x7EFF : VAddr).setWidth 14 : PpuAddr).toNat < 0x3F00 ∧
    0x3F00 ≤ ((0x7F00 : VAddr).setWidth 14 : PpuAddr).toNat := by
  unfold inPpuWindow
  decide

theorem test_witness_ScrollAndAddressPairs : Ppu.reset.w = false := rfl

theorem test_witness_PpuAddressSpace :
    (0x1FFF : PpuAddr).toNat < 0x2000 ∧ (0x2000 ≤ (0x2000 : PpuAddr).toNat ∧ (0x3EFF : PpuAddr).toNat < 0x3F00) ∧
    (0x3F00 ≤ (0x3F00 : PpuAddr).toNat ∧ (0x3FDF : PpuAddr).toNat < 0x3FE0 ∧ (0x3FEC : PpuAddr).toNat % 0x20 < 0x10 ∧
      (0x3FEC : PpuAddr).toNat % 4 = 0) ∧ (0x2EFF : PpuAddr).toNat < 0x2F00 := by decide

/-- A full frame from (0, 0), and one dot less of an odd one with the background on. -/
theorem test_witness_FrameLength :
    (Ppu.reset.scanline = 0 ∧ Ppu.reset.dot = 0 ∧ frameTicks true Ppu.reset = 89342) ∧
    frameTicks true { Ppu.reset with mask := 0x08, oddFrame := true } = 89341 ∧
    0 < frameTicks true Ppu.reset := by decide

theorem test_witness_NmiOncePerFrame :
    Ppu.reset.scanline = 0 ∧ Ppu.reset.dot = 0 ∧ 82181 < frameTicks true Ppu.reset ∧
    89002 < frameTicks true { Ppu.reset with mask := 0x08, oddFrame := true } := by decide

/-- Positions that work and that do not: the last visible line, the one after it, the pre-render line; no rendering. -/
theorem test_witness_BackgroundPipeline :
    (renderingEnabled { Ppu.reset with mask := 0x08 } = true ∧ renderingEnabled { Ppu.reset with mask := 0x10 } = true ∧
      renderingEnabled Ppu.reset = false) ∧
    (tick rom true { Ppu.reset with mask := 0x08, scanline := 239 }).ppu.scanline = 239 ∧
    (tick rom true { Ppu.reset with mask := 0x08, scanline := 240 }).ppu.scanline = 240 ∧
    (tick rom true { Ppu.reset with mask := 0x08, scanline := 261 }).ppu.scanline = 261 ∧
    (tick rom true { Ppu.reset with scanline := 261, dot := 339 }).frameDone = false ∧
    (tick rom true { Ppu.reset with scanline := 261, dot := 340 }).frameDone = true := by decide

theorem test_witness_ScrollArithmetic :
    (0x001E : VAddr).toNat % 32 < 31 ∧ (0x7FFF : VAddr).toNat % 32 = 31 ∧ (0x6FFF : VAddr).toNat / 4096 < 7 ∧
    (0x7000 : VAddr).toNat / 4096 = 7 := by decide

/-- The first and the last visible dot, and the dot after it. -/
theorem test_witness_PixelOutput :
    (tick rom true Ppu.reset).ppu.dot = 1 ∧
    (let w := (tick rom true { Ppu.reset with scanline := 239, dot := 255 }).ppu
     w.scanline = 239 ∧ w.dot = 256) ∧
    (tick rom true { Ppu.reset with scanline := 239, dot := 256 }).ppu.dot = 257 := by decide

theorem test_witness_InterruptEntries :
    m0.status = .running ∧ ({ m0 with nmiRequest := true } : State).nmiRequest = true ∧
    (m0.nmiRequest = false ∧ ({ m0 with irqLine := true } : State).irqLine = true ∧
      ({ Flags.reset with i := false } : Flags).i = false) ∧ (m0.irqLine = false ∧ m0.p.i = true) := by decide

theorem test_witness_DriverPart :
    ({ m0 with cycles := 2273 } : State).Inv ∧ ({ m0 with cycles := 2273 } : State).cycles ≤ 2273 ∧
    ({ m0 with cycles := 30000 } : State).Inv :=
  ⟨{ m0_inv with }, by decide, { m0_inv with }⟩

theorem test_witness_PowerOnState :
    (∃ c, ingest (image 0 16384 8192 .vertical) = .ok c) ∧
    (List.replicate 2048 (0 : Byte)).length = 2048 ∧ (List.replicate 32 (0 : Byte)).length = 32 ∧
    (List.replicate 256 (0 : Byte)).length = 256 :=
  ⟨images_ingest.1, List.length_replicate, List.length_replicate, List.length_replicate⟩

theorem test_witness_HostResetState :
    ({ m0 with status := .halted } : State).status ≠ .running ∧
    ({ m0 with status := .faulted (.decodeError 0x8000) } : State).status ≠ .running := by decide

theorem test_witness_StepKeepsTheInvariant : m0.Inv ∧ (next? m0).isSome = true := ⟨m0_inv, by decide +kernel⟩

theorem test_witness_ReachableStatesMeetTheInvariant :
    (∃ img c, ingest img = .ok c ∧ Reachable (powerOn c Params.default InitParams.zero)) ∧ m0.Inv := by
  obtain ⟨c, hc⟩ := images_ingest.1
  exact ⟨⟨_, c, hc, .powerOn _ c _ _ hc⟩, m0_inv⟩

end Sys2Proof.Tests
end

section
/-! The machine's invariant is kept by every step (O58): the CPU's part keeps it by `CpuStep`, the driver's by `ticks_inv`. -/

namespace Sys2Proof.Machine

variable {s t : State}

/-- The CPU's part of a step keeps the invariant. -/
theorem CpuStep.keepsInv (h : CpuStep s t) (i : s.Inv) : t.Inv where
  ram := h.ram i.ram
  ppu := h.ppu.inv i.ppu
  cart := h.cart ▸ i.cart
  frames := h.frames ▸ i.frames
  latch := h.latch i.latch
  nmiTaken := h.ppu.nmiPending.trans i.nmiTaken
  frameTaken := h.ppu.frameComplete.trans i.frameTaken

/-- The driver's part of a step keeps the invariant: the ticks keep the picture unit's, and every frame handed out is in
canonical form. -/
theorem afterCpu_keepsInv (i : s.Inv) : (afterCpu s).Inv where
  ram := i.ram
  ppu := afterCpu_inv s i.ppu
  cart := i.cart
  frames f hf := by
    obtain ⟨hu, hfs⟩ := ticks_inv s.cart s.params.oddFrameSkip (Config.dotsPerCycle * s.cycles) i.ppu
    rcases List.mem_append.1 hf with h | h
    · exact i.frames f h
    · exact stepFrames_wf hu hfs f h
  latch := i.latch
  nmiTaken := rfl
  frameTaken := rfl

/-- Settles O58: the CPU's part keeps the invariant whatever the step runs, and the driver's part keeps it after that. -/
theorem stepKeepsTheInvariant : Obligations.StepKeepsTheInvariant := by
  intro s t i h
  rcases step_next h with ⟨-, rfl⟩ | ⟨-, -, rfl⟩ | ⟨-, -, rfl⟩ | ⟨-, -, _, s1, s2, hf, hx, rfl⟩
  · exact i
  · have hn : (s.setNmiRequest false).Inv := { i with }
    exact afterCpu_keepsInv ((nmiEntry_cpuStep s).keepsInv hn)
  · exact afterCpu_keepsInv ((irqEntry_cpuStep s).keepsInv i)
  · exact afterCpu_keepsInv (((fetch_cpuStep s hf).trans (exec_cpuStep hx)).keepsInv i)

end Sys2Proof.Machine
end

section
/-! What a fault leaves (O8) and what a step leaves to the host (O38). -/

namespace Sys2Proof.Machine

variable {s t : State}

/-- A running machine whose step faults is left as `faultedBy` says. -/
theorem driverStep_of_fault {r : Fault} (hs : s.status = .running) (h : step s = .fault r) :
    driverStep s = s.faultedBy r := by
  simp [driverStep, hs, h]

/-- Settles O8: the state a fault leaves is `faultedBy`, whose status stops `step` and `driverStep`. -/
theorem faultRestoresTheState : Obligations.FaultRestoresTheState := by
  intro s r hs h
  rw [driverStep_of_fault hs h]
  exact ⟨rfl, rfl, rfl⟩

/-! ### How many bytes an instruction draws -/

/-- An instruction that draws nothing. -/
theorem Drew.of_draws_eq {n : Nat} (h : t.draws = s.draws) : Drew n s t := (Drew.of_eq h).mono n.zero_le

@[simp] theorem finishInstr_draws (n : Nat) (s : State) : (finishInstr n s).draws = s.draws := rfl

theorem readEffect_draws {e : Byte → State → State} (h : ReadEffect e) (m : Byte) (s : State) :
    (e m s).draws = s.draws := by
  cases h <;> rfl

theorem impliedEffect_draws {e : State → State} (h : ImpliedEffect e) (s : State) : (e s).draws = s.draws := by
  cases h <;> rfl

/-- A read-class instruction draws at most the byte its operand reads. -/
theorem readInstr_drew {o : Operand} {e : Byte → State → State} (he : ReadEffect e) (h : readInstr o e s = .next t) :
    Drew 1 s t := by
  obtain ⟨m, s1, n, rfl, rfl | ⟨q, -, rfl⟩⟩ := readInstr_next s h
  · exact .of_draws_eq (readEffect_draws he m _)
  · have k := busRead_drew (q.ea s) s
    have hd := readEffect_draws he m
      { (busRead (q.ea s) s).2 with pc := s.pc + BitVec.ofNat 16 q.length, extraCycles := 0 }
    exact ⟨k.monotone.trans hd.ge, hd.le.trans k.bound⟩

/-- A write-class instruction draws at most the bytes of an OAM DMA. -/
theorem writeInstr_drew {m : MemOperand} {v : Byte} (h : writeInstr m v s = .next t) : Drew 256 s t := by
  obtain ⟨s1, hw, rfl⟩ := writeInstr_next s h
  have k := write_drew hw
  exact ⟨k.monotone, k.bound⟩

/-- A read-modify-write instruction draws at most the byte it reads and those of an OAM DMA. -/
theorem rmwInstr_drew {m : MemOperand} {op : Flags → Byte → RmwResult} (h : rmwInstr m op s = .next t) :
    Drew 257 s t := by
  obtain ⟨-, s1, hw, rfl⟩ := rmwInstr_next s h
  have k := (busRead_drew (m.ea s) s).trans (Drew.mk (write_drew hw).monotone (write_drew hw).bound)
  exact ⟨k.monotone, k.bound⟩

/-- `JMP (ind)` draws at most its pointer's two bytes. -/
theorem execJmpInd_drew {a : Addr} (h : execJmpInd a s = .next t) : Drew 2 s t := by
  simp only [execJmpInd] at h
  split at h
  · cases h
  · rename_i h1
    split at h
    · cases h
    · rename_i h2
      have k := (read_drew h1).trans (read_drew h2)
      rw [← Host.Outcome.next.inj h]
      exact ⟨k.monotone, k.bound⟩

theorem execBrk_draws (h : execBrk s = .next t) : t.draws = s.draws := by
  simp only [execBrk] at h
  split at h <;> rw [← Host.Outcome.next.inj h]
  · rw [finishInstr_draws, takeInterrupt_draws, startInstr_draws]
  · rfl

theorem branchInstr_draws {c : Bool} {off : Byte} (h : branchInstr c off s = .next t) : t.draws = s.draws := by
  rw [branchInstr_eq] at h
  rw [← Host.Outcome.next.inj h]

theorem impliedInstr_draws {n : Nat} {e : State → State} (he : ImpliedEffect e) (h : impliedInstr n e s = .next t) :
    t.draws = s.draws := by
  rw [← Host.Outcome.next.inj h, finishInstr_draws, impliedEffect_draws he, startInstr_draws]

theorem execJsr_draws {a : Addr} (h : execJsr a s = .next t) : t.draws = s.draws := by
  rw [← Host.Outcome.next.inj h, finishInstr_draws, State.setPc_draws, push16_draws, startInstr_draws]

/-- No instruction draws more than 258 bytes beyond its fetch. -/
theorem shape_drew {f : State → Host.Outcome State Fault Refusal} (hf : Shape f) (h : f s = .next t) :
    Drew 258 s t := by
  cases hf with
  | read o he => exact (readInstr_drew he h).mono (by decide)
  | sta m => exact (writeInstr_drew h).mono (by decide)
  | stx m => exact (writeInstr_drew h).mono (by decide)
  | sty m => exact (writeInstr_drew h).mono (by decide)
  | rmw m _ => exact (rmwInstr_drew h).mono (by decide)
  | acc _ => exact .of_draws_eq (by rw [← Host.Outcome.next.inj h]; rfl)
  | implied n he => exact .of_draws_eq (impliedInstr_draws he h)
  | branch _ off => exact .of_draws_eq (branchInstr_draws h)
  | jmpAbs a => exact .of_draws_eq (by rw [← Host.Outcome.next.inj h]; rfl)
  | jmpInd a => exact (execJmpInd_drew h).mono (by decide)
  | jsr a => exact .of_draws_eq (execJsr_draws h)
  | brk => exact .of_draws_eq (execBrk_draws h)

/-! ### What the driver's part of a step leaves to the host -/

/-- What a step leaves of the host's inputs, and how its counts and its frames move. -/
structure LeavesHost (s t : State) : Prop where
  cart : t.cart = s.cart
  params : t.params = s.params
  irqLine : t.irqLine = s.irqLine
  buttons : t.ctl.buttons = s.ctl.buttons
  frames : ∃ l, t.frames = s.frames ++ l
  cyclesTotal : s.cyclesTotal ≤ t.cyclesTotal
  drew : Drew Config.drawsPerStep s t

/-- The driver's part after the CPU's leaves the host's inputs alone. -/
theorem CpuStep.afterCpu_leavesHost (h : CpuStep s t) (hd : Drew Config.drawsPerStep s t) : LeavesHost s (afterCpu t) where
  cart := h.cart
  params := h.params
  irqLine := h.irqLine
  buttons := h.buttons
  frames := ⟨_, by rw [afterCpu_frames, h.frames]⟩
  cyclesTotal := by rw [afterCpu_cyclesTotal, h.cyclesTotal]; omega
  drew := ⟨hd.monotone, hd.bound⟩

theorem step_leavesHost (h : step s = .next t) : LeavesHost s t := by
  rcases step_next h with ⟨-, rfl⟩ | ⟨-, -, rfl⟩ | ⟨-, -, rfl⟩ | ⟨-, -, _, s1, s2, hf, hx, rfl⟩
  · exact ⟨rfl, rfl, rfl, rfl, ⟨[], by simp⟩, le_rfl, .of_draws_eq rfl⟩
  · have k : LeavesHost (s.setNmiRequest false) (afterCpu (nmiEntry s)) :=
      (nmiEntry_cpuStep s).afterCpu_leavesHost (.of_draws_eq (nmiEntry_draws s))
    exact ⟨k.cart, k.params, k.irqLine, k.buttons, k.frames, k.cyclesTotal, ⟨k.drew.monotone, k.drew.bound⟩⟩
  · exact (irqEntry_cpuStep s).afterCpu_leavesHost (.of_draws_eq (irqEntry_draws s))
  · exact ((fetch_cpuStep s hf).trans (exec_cpuStep hx)).afterCpu_leavesHost
      ((fetch_drew hf).trans (shape_drew (exec_shape _) hx))

/-- Settles O38: each way a step can end leaves the host's inputs alone; a fault moves the count of draws by `drawsPerStep`. -/
theorem stepLeavesHostInputs : Obligations.StepLeavesHostInputs := by
  refine ⟨fun s t h => ?_, fun s r hs h => ?_⟩
  · have k := step_leavesHost h
    exact ⟨k.cart, k.params, k.irqLine, k.buttons, k.frames, k.cyclesTotal, k.drew.monotone, k.drew.bound⟩
  · rw [driverStep_of_fault hs h]
    rfl

end Sys2Proof.Machine
end

section
/-! Who writes each register, each flag and RAM (O35): each shared operation changes only what its effect names, and each
instruction is made of them. -/

namespace Sys2Proof.Machine

open Claims

/-- From `s` to `t` no register and no flag changed but those `k` names, and RAM only if `mem` is true. -/
structure OnlyWrites (k : Touches) (mem : Bool) (s t : State) : Prop where
  a : k.a = false → t.a = s.a
  x : k.x = false → t.x = s.x
  y : k.y = false → t.y = s.y
  sp : k.sp = false → t.sp = s.sp
  n : k.n = false → t.p.n = s.p.n
  v : k.v = false → t.p.v = s.p.v
  b : k.b = false → t.p.b = s.p.b
  d : k.d = false → t.p.d = s.p.d
  i : k.i = false → t.p.i = s.p.i
  z : k.z = false → t.p.z = s.p.z
  c : k.c = false → t.p.c = s.p.c
  ram : mem = false → t.ram = s.ram

variable {k : Touches} {mem : Bool} {s t u : State}

theorem OnlyWrites.trans (h : OnlyWrites k mem s t) (h' : OnlyWrites k mem t u) : OnlyWrites k mem s u :=
  ⟨fun e => (h'.a e).trans (h.a e), fun e => (h'.x e).trans (h.x e), fun e => (h'.y e).trans (h.y e),
    fun e => (h'.sp e).trans (h.sp e), fun e => (h'.n e).trans (h.n e), fun e => (h'.v e).trans (h.v e),
    fun e => (h'.b e).trans (h.b e), fun e => (h'.d e).trans (h.d e), fun e => (h'.i e).trans (h.i e),
    fun e => (h'.z e).trans (h.z e), fun e => (h'.c e).trans (h.c e), fun e => (h'.ram e).trans (h.ram e)⟩

/-- What leaves the registers and the flags alone, and RAM unless it stores, writes nothing else. -/
theorem OnlyWrites.of_eq (ha : t.a = s.a) (hx : t.x = s.x) (hy : t.y = s.y) (hsp : t.sp = s.sp) (hp : t.p = s.p)
    (hr : mem = false → t.ram = s.ram) : OnlyWrites k mem s t := by
  constructor <;> simp_all

theorem OnlyWrites.refl (s : State) : OnlyWrites k mem s s := .of_eq rfl rfl rfl rfl rfl fun _ => rfl

/-! ### The steps every instruction is made of -/

theorem startInstr_onlyWrites (n : Nat) (s : State) : OnlyWrites k mem s (startInstr n s) :=
  .of_eq rfl rfl rfl rfl rfl fun _ => rfl

theorem finishInstr_onlyWrites (n : Nat) (s : State) : OnlyWrites k mem s (finishInstr n s) :=
  .of_eq rfl rfl rfl rfl rfl fun _ => rfl

theorem setPc_onlyWrites (pc : Addr) (s : State) : OnlyWrites k mem s (s.setPc pc) :=
  .of_eq rfl rfl rfl rfl rfl fun _ => rfl

theorem busRead_onlyWrites (a : Addr) (s : State) : OnlyWrites k mem s (busRead a s).2 := by
  rw [busRead_frame]
  exact .of_eq rfl rfl rfl rfl rfl fun _ => rfl

theorem read_onlyWrites {a : Addr} {b : Byte} (h : read a s = .ok (b, t)) : OnlyWrites k mem s t := by
  have w := busRead_onlyWrites (k := k) (mem := mem) a s
  rwa [((read_ok_iff _ _ _).1 h).2] at w

theorem write_onlyWrites {a : Addr} {v : Byte} (h : write a v s = .ok t) : OnlyWrites k true s t := by
  rw [write_frame s h]
  exact .of_eq rfl rfl rfl rfl rfl nofun

/-! ### The effects on registers, flags and the stack -/

theorem setA_onlyWrites (ha : k.a = true) (v : Byte) (s : State) : OnlyWrites k mem s (s.setA v) := by
  constructor <;> simp [ha]

theorem setX_onlyWrites (hx : k.x = true) (v : Byte) (s : State) : OnlyWrites k mem s (s.setX v) := by
  constructor <;> simp [hx]

theorem setY_onlyWrites (hy : k.y = true) (v : Byte) (s : State) : OnlyWrites k mem s (s.setY v) := by
  constructor <;> simp [hy]

theorem setSp_onlyWrites (hsp : k.sp = true) (v : Byte) (s : State) : OnlyWrites k mem s (s.setSp v) := by
  constructor <;> simp [hsp]

/-- N and Z from a result (R207). -/
theorem setNZ_onlyWrites (hn : k.n = true) (hz : k.z = true) (r : Byte) (s : State) :
    OnlyWrites k mem s (s.setP (s.p.setNZ r)) := by
  constructor <;> simp [hn, hz]

/-- The flags of a shift (R270 to R273). -/
theorem setShifted_onlyWrites (hn : k.n = true) (hz : k.z = true) (hc : k.c = true) (out : Bool) (r : Byte) (s : State) :
    OnlyWrites k mem s (s.setP (s.p.shifted out r)) := by
  constructor <;> simp [hn, hz, hc, Flags.shifted]

/-- The flags of a comparison (R245 to R247). -/
theorem setCompare_onlyWrites (hn : k.n = true) (hz : k.z = true) (hc : k.c = true) (r m : Byte) (s : State) :
    OnlyWrites k mem s (s.setP (s.p.compare r m)) := by
  constructor <;> simp [hn, hz, hc, Flags.compare]

/-- The flags of BIT (R248). -/
theorem setBitTest_onlyWrites (hn : k.n = true) (hz : k.z = true) (hv : k.v = true) (a m : Byte) (s : State) :
    OnlyWrites k mem s (s.setP (s.p.bitTest a m)) := by
  constructor <;> simp [hn, hz, hv, Flags.bitTest]

theorem loadA_onlyWrites (ha : k.a = true) (hn : k.n = true) (hz : k.z = true) (v : Byte) (s : State) :
    OnlyWrites k mem s (loadA v s) :=
  (setA_onlyWrites ha v s).trans (setNZ_onlyWrites hn hz v (s.setA v))

theorem loadX_onlyWrites (hx : k.x = true) (hn : k.n = true) (hz : k.z = true) (v : Byte) (s : State) :
    OnlyWrites k mem s (loadX v s) :=
  (setX_onlyWrites hx v s).trans (setNZ_onlyWrites hn hz v (s.setX v))

theorem loadY_onlyWrites (hy : k.y = true) (hn : k.n = true) (hz : k.z = true) (v : Byte) (s : State) :
    OnlyWrites k mem s (loadY v s) :=
  (setY_onlyWrites hy v s).trans (setNZ_onlyWrites hn hz v (s.setY v))

/-- ADC, and SBC, which is ADC of the complement (R240, R241). -/
theorem adcEffect_onlyWrites (ha : k.a = true) (hn : k.n = true) (hz : k.z = true) (hv : k.v = true) (hc : k.c = true)
    (m : Byte) (s : State) : OnlyWrites k mem s (adcEffect m s) := by
  constructor <;> simp [ha, hn, hz, hv, hc, adcEffect, Flags.adc]

/-- All seven flags from a pulled byte (R38). -/
theorem setUnpack_onlyWrites (hn : k.n = true) (hv : k.v = true) (hb : k.b = true) (hd : k.d = true) (hi : k.i = true)
    (hz : k.z = true) (hc : k.c = true) (b : Byte) (s : State) : OnlyWrites k mem s (s.setP (Flags.unpack b)) := by
  constructor <;> simp [hn, hv, hb, hd, hi, hz, hc]

theorem setC_onlyWrites (hc : k.c = true) (b : Bool) (s : State) : OnlyWrites k mem s (s.setP { s.p with c := b }) := by
  constructor <;> simp [hc]

theorem setD_onlyWrites (hd : k.d = true) (b : Bool) (s : State) : OnlyWrites k mem s (s.setP { s.p with d := b }) := by
  constructor <;> simp [hd]

theorem setI_onlyWrites (hi : k.i = true) (b : Bool) (s : State) : OnlyWrites k mem s (s.setP { s.p with i := b }) := by
  constructor <;> simp [hi]

theorem setV_onlyWrites (hv : k.v = true) (b : Bool) (s : State) : OnlyWrites k mem s (s.setP { s.p with v := b }) := by
  constructor <;> simp [hv]

theorem push_onlyWrites (hsp : k.sp = true) (b : Byte) (s : State) : OnlyWrites k true s (push b s) := by
  constructor <;> simp [hsp, push, State.ramPut]

theorem push16_onlyWrites (hsp : k.sp = true) (w : Addr) (s : State) : OnlyWrites k true s (push16 w s) :=
  (push_onlyWrites hsp _ s).trans (push_onlyWrites hsp _ _)

theorem takeInterrupt_onlyWrites (hsp : k.sp = true) (hi : k.i = true) (b : Bool) (v : Addr) (s : State) :
    OnlyWrites k true s (takeInterrupt b v s) := by
  obtain ⟨r, h⟩ := takeInterrupt_changes s b v
  rw [h]
  constructor <;> simp [hsp, hi]

theorem returnFromInterrupt_onlyWrites (hsp : k.sp = true) (hn : k.n = true) (hv : k.v = true) (hb : k.b = true)
    (hd : k.d = true) (hi : k.i = true) (hz : k.z = true) (hc : k.c = true) (s : State) :
    OnlyWrites k mem s (returnFromInterrupt s) := by
  rw [returnFromInterrupt_changes]
  exact (setSp_onlyWrites hsp _ s).trans ((setUnpack_onlyWrites hn hv hb hd hi hz hc _ _).trans (setPc_onlyWrites _ _))

/-! ### The instruction classes -/

theorem readInstr_onlyWrites {o : Operand} {e : Byte → State → State} (h : readInstr o e s = .next t)
    (he : ∀ m s, OnlyWrites k mem s (e m s)) : OnlyWrites k mem s t := by
  obtain ⟨m, s1, n, rfl, h1⟩ := readInstr_next s h
  have h2 : OnlyWrites k mem s s1 := by
    rcases h1 with rfl | ⟨q, -, rfl⟩
    · exact startInstr_onlyWrites _ s
    · exact (busRead_onlyWrites (q.ea s) s).trans (.of_eq rfl rfl rfl rfl rfl fun _ => rfl)
  exact h2.trans ((he m s1).trans (finishInstr_onlyWrites _ _))

theorem writeInstr_onlyWrites {m : MemOperand} {v : Byte} (h : writeInstr m v s = .next t) : OnlyWrites k true s t := by
  obtain ⟨s1, hw, rfl⟩ := writeInstr_next s h
  exact (startInstr_onlyWrites _ s).trans ((write_onlyWrites hw).trans (finishInstr_onlyWrites _ _))

theorem rmwInstr_onlyWrites {m : MemOperand} {op : Flags → Byte → RmwResult} (h : rmwInstr m op s = .next t)
    (ho : ∀ (b : Byte) (s : State), OnlyWrites k true s (s.setP (op s.p b).flags)) : OnlyWrites k true s t := by
  obtain ⟨-, s1, hw, rfl⟩ := rmwInstr_next s h
  have w := write_onlyWrites (k := k) hw
  have h1 : OnlyWrites k true s s1 := (busRead_onlyWrites (m.ea s) s).trans
    ⟨w.a, w.x, w.y, w.sp, w.n, w.v, w.b, w.d, w.i, w.z, w.c, w.ram⟩
  have hp : s1.p = s.p := by rw [write_frame _ hw, busRead_frame]
  have h2 := ho (busRead (m.ea s) s).1 s1
  rw [hp] at h2
  exact h1.trans (h2.trans (finishInstr_onlyWrites _ _))

theorem accInstr_onlyWrites {op : Flags → Byte → RmwResult} (h : accInstr op s = .next t) (ha : k.a = true)
    (ho : ∀ (b : Byte) (s : State), OnlyWrites k mem s (s.setP (op s.p b).flags)) : OnlyWrites k mem s t := by
  rw [← Host.Outcome.next.inj h]
  exact (startInstr_onlyWrites 1 s).trans ((setA_onlyWrites ha _ _).trans
    ((ho s.a ((startInstr 1 s).setA _)).trans (finishInstr_onlyWrites _ _)))

theorem impliedInstr_onlyWrites {n : Nat} {e : State → State} (h : impliedInstr n e s = .next t)
    (he : ∀ s, OnlyWrites k mem s (e s)) : OnlyWrites k mem s t := by
  rw [← Host.Outcome.next.inj h]
  exact (startInstr_onlyWrites 1 s).trans ((he _).trans (finishInstr_onlyWrites _ _))

theorem branchInstr_onlyWrites {c : Bool} {off : Byte} (h : branchInstr c off s = .next t) : OnlyWrites k mem s t := by
  rw [branchInstr_eq] at h
  rw [← Host.Outcome.next.inj h]
  exact .of_eq rfl rfl rfl rfl rfl fun _ => rfl

theorem execJmpAbs_onlyWrites {a : Addr} (h : execJmpAbs a s = .next t) : OnlyWrites k mem s t := by
  rw [← Host.Outcome.next.inj h]
  exact .of_eq rfl rfl rfl rfl rfl fun _ => rfl

theorem execJmpInd_onlyWrites {a : Addr} (h : execJmpInd a s = .next t) : OnlyWrites k mem s t := by
  simp only [execJmpInd] at h
  split at h
  · cases h
  · rename_i h1
    split at h
    · cases h
    · rename_i h2
      rw [← Host.Outcome.next.inj h]
      exact (startInstr_onlyWrites 3 s).trans ((read_onlyWrites h1).trans ((read_onlyWrites h2).trans
        ((setPc_onlyWrites _ _).trans (finishInstr_onlyWrites _ _))))

theorem execJsr_onlyWrites {a : Addr} (h : execJsr a s = .next t) (hsp : k.sp = true) : OnlyWrites k true s t := by
  rw [← Host.Outcome.next.inj h]
  exact (startInstr_onlyWrites 3 s).trans ((push16_onlyWrites hsp _ _).trans
    ((setPc_onlyWrites _ _).trans (finishInstr_onlyWrites _ _)))

theorem execBrk_onlyWrites (h : execBrk s = .next t) (hsp : k.sp = true) (hi : k.i = true) : OnlyWrites k true s t := by
  simp only [execBrk] at h
  split at h <;> rw [← Host.Outcome.next.inj h]
  · exact (startInstr_onlyWrites 2 s).trans ((takeInterrupt_onlyWrites hsp hi _ _ _).trans (finishInstr_onlyWrites _ _))
  · exact .of_eq rfl rfl rfl rfl rfl fun _ => rfl

/-! ### Every instruction -/

/-- What the spec's lists let an instruction write (R31 to R34, R39). -/
def listedWrites (i : Instr) : Touches where
  a := writesA i
  x := writesX i
  y := writesY i
  sp := writesSp i
  n := writesNZ i
  v := writesV i
  b := writesB i
  d := writesD i
  i := writesI i
  z := writesNZ i
  c := writesC i

/-- An instruction writes what the spec's lists name for it, and nothing else of the registers, the flags and RAM. -/
theorem exec_onlyWrites {i : Instr} (h : exec i s = .next t) : OnlyWrites (listedWrites i) (storesMemory i) s t := by
  cases i <;> simp only [exec] at h
  case ldaImm | ldaZp | ldaZpX | ldaAbs | ldaAbsX | ldaAbsY | ldaIndX | ldaIndY =>
    exact readInstr_onlyWrites h (loadA_onlyWrites rfl rfl rfl)
  case ldxImm | ldxZp | ldxZpY | ldxAbs | ldxAbsY =>
    exact readInstr_onlyWrites h (loadX_onlyWrites rfl rfl rfl)
  case ldyImm | ldyZp | ldyZpX | ldyAbs | ldyAbsX =>
    exact readInstr_onlyWrites h (loadY_onlyWrites rfl rfl rfl)
  case staZp | staZpX | staAbs | staAbsX | staAbsY | staIndX | staIndY | stxZp | stxZpY | stxAbs | styZp | styZpX | styAbs =>
    exact writeInstr_onlyWrites h
  case tax | tsx | inx | dex => exact impliedInstr_onlyWrites h fun s => loadX_onlyWrites rfl rfl rfl _ s
  case tay | iny | dey => exact impliedInstr_onlyWrites h fun s => loadY_onlyWrites rfl rfl rfl _ s
  case txa | tya => exact impliedInstr_onlyWrites h fun s => loadA_onlyWrites rfl rfl rfl _ s
  case txs => exact impliedInstr_onlyWrites h fun s => setSp_onlyWrites rfl _ s
  case adcImm | adcZp | adcZpX | adcAbs | adcAbsX | adcAbsY | adcIndX | adcIndY =>
    exact readInstr_onlyWrites h (adcEffect_onlyWrites rfl rfl rfl rfl rfl)
  case sbcImm | sbcZp | sbcZpX | sbcAbs | sbcAbsX | sbcAbsY | sbcIndX | sbcIndY =>
    exact readInstr_onlyWrites h fun m => adcEffect_onlyWrites rfl rfl rfl rfl rfl (m ^^^ 0xFF#8)
  case andImm | andZp | andZpX | andAbs | andAbsX | andAbsY | andIndX | andIndY =>
    exact readInstr_onlyWrites h fun m s => loadA_onlyWrites rfl rfl rfl (s.a &&& m) s
  case oraImm | oraZp | oraZpX | oraAbs | oraAbsX | oraAbsY | oraIndX | oraIndY =>
    exact readInstr_onlyWrites h fun m s => loadA_onlyWrites rfl rfl rfl (s.a ||| m) s
  case eorImm | eorZp | eorZpX | eorAbs | eorAbsX | eorAbsY | eorIndX | eorIndY =>
    exact readInstr_onlyWrites h fun m s => loadA_onlyWrites rfl rfl rfl (s.a ^^^ m) s
  case cmpImm | cmpZp | cmpZpX | cmpAbs | cmpAbsX | cmpAbsY | cmpIndX | cmpIndY =>
    exact readInstr_onlyWrites h fun m s => setCompare_onlyWrites rfl rfl rfl s.a m s
  case cpxImm | cpxZp | cpxAbs => exact readInstr_onlyWrites h fun m s => setCompare_onlyWrites rfl rfl rfl s.x m s
  case cpyImm | cpyZp | cpyAbs => exact readInstr_onlyWrites h fun m s => setCompare_onlyWrites rfl rfl rfl s.y m s
  case bitZp | bitAbs => exact readInstr_onlyWrites h fun m s => setBitTest_onlyWrites rfl rfl rfl s.a m s
  case incZp | incZpX | incAbs | incAbsX | decZp | decZpX | decAbs | decAbsX =>
    exact rmwInstr_onlyWrites h fun b s => setNZ_onlyWrites rfl rfl _ s
  case aslZp | aslZpX | aslAbs | aslAbsX | lsrZp | lsrZpX | lsrAbs | lsrAbsX | rolZp | rolZpX | rolAbs | rolAbsX | rorZp |
      rorZpX | rorAbs | rorAbsX =>
    exact rmwInstr_onlyWrites h fun b s => setShifted_onlyWrites rfl rfl rfl _ _ s
  case aslA | lsrA | rolA | rorA =>
    exact accInstr_onlyWrites h rfl fun b s => setShifted_onlyWrites rfl rfl rfl _ _ s
  case bcc | bcs | beq | bmi | bne | bpl | bvc | bvs => exact branchInstr_onlyWrites h
  case jmpAbs => exact execJmpAbs_onlyWrites h
  case jmpInd => exact execJmpInd_onlyWrites h
  case jsr => exact execJsr_onlyWrites h rfl
  case rts =>
    exact impliedInstr_onlyWrites h fun s => (setSp_onlyWrites rfl (s.sp + 1 + 1) s).trans (setPc_onlyWrites _ _)
  case brk => exact execBrk_onlyWrites h rfl rfl
  case rti => exact impliedInstr_onlyWrites h (returnFromInterrupt_onlyWrites rfl rfl rfl rfl rfl rfl rfl rfl)
  case pha | php => exact impliedInstr_onlyWrites h fun s => push_onlyWrites rfl _ s
  case pla =>
    exact impliedInstr_onlyWrites h fun s => (setSp_onlyWrites rfl (s.sp + 1) s).trans (loadA_onlyWrites rfl rfl rfl _ _)
  case plp =>
    exact impliedInstr_onlyWrites h fun s => (setSp_onlyWrites rfl (s.sp + 1) s).trans
      (setUnpack_onlyWrites rfl rfl rfl rfl rfl rfl rfl _ _)
  case clc | sec => exact impliedInstr_onlyWrites h fun s => setC_onlyWrites rfl _ s
  case cld | sed => exact impliedInstr_onlyWrites h fun s => setD_onlyWrites rfl _ s
  case cli | sei => exact impliedInstr_onlyWrites h fun s => setI_onlyWrites rfl _ s
  case clv => exact impliedInstr_onlyWrites h fun s => setV_onlyWrites rfl _ s
  case nop => exact impliedInstr_onlyWrites h fun s => .refl s

/-- Settles O35: what differs after an instruction is not left alone by it, so the lists name it. -/
theorem writersOfRegistersAndFlags : Obligations.WritersOfRegistersAndFlags := by
  intro i s t h
  have w := exec_onlyWrites h
  have named : ∀ {b : Bool} {p : Prop}, (b = false → p) → ¬p → b = true := fun {b} _ hp hn => by
    cases b
    · exact absurd (hp rfl) hn
    · rfl
  exact ⟨named w.a, named w.x, named w.y, named w.sp, named w.c, named w.z, named w.n, named w.v, named w.i, named w.d,
    named w.b, named w.ram⟩

end Sys2Proof.Machine
end

section
/-! The stored flag B is never read (O36): every operation commutes with setting it, or overwrites it. -/

namespace Sys2Proof.Machine

open Claims

/-- The flags with B set to `b`. -/
def Flags.withB (p : Flags) (b : Bool) : Flags := { p with b := b }

/-- The machine with the stored flag B set to `b`. -/
def State.withB (s : State) (b : Bool) : State := s.setP (s.p.withB b)

@[simp] theorem State.withB_p (s : State) (b : Bool) : (s.withB b).p = s.p.withB b := rfl
@[simp] theorem State.withB_pc (s : State) (b : Bool) : (s.withB b).pc = s.pc := rfl
@[simp] theorem State.withB_params (s : State) (b : Bool) : (s.withB b).params = s.params := rfl
@[simp] theorem State.withB_status (s : State) (b : Bool) : (s.withB b).status = s.status := rfl
@[simp] theorem Flags.pack_withB (p : Flags) (b bflag : Bool) : (p.withB b).pack bflag = p.pack bflag := rfl

variable {s t : State} {b : Bool}

/-! ### The bus does not look at the flags -/

theorem busRead_setP (a : Addr) (p : Flags) (s : State) :
    busRead a (s.setP p) = ((busRead a s).1, (busRead a s).2.setP p) := by
  unfold busRead
  split_ifs
  · rfl
  · unfold readPpu
    split
    · rfl
    · rfl
    · cases hp : isPalette s.ppu.dataAddr <;> simp only [State.setP_ppu, hp] <;> rfl
    · rfl
  · rfl
  · rfl
  · rfl

theorem read_setP (a : Addr) (p : Flags) (s : State) :
    read a (s.setP p) = (read a s).map fun r => (r.1, r.2.setP p) := by
  unfold read
  split_ifs
  · rfl
  · rw [busRead_setP]
    rfl

theorem oamDmaLoop_setP (d : Byte) (n : Nat) (p : Flags) (s : State) :
    oamDmaLoop d n (s.setP p) = (oamDmaLoop d n s).map fun t => t.setP p := by
  induction n generalizing s with
  | zero => rfl
  | succ n ih =>
    simp only [oamDmaLoop, read_setP]
    cases read (hiLo d (BitVec.ofNat 8 (255 - n))) s with
    | error e => rfl
    | ok r => exact ih (r.2.setPpu { r.2.ppu with
        oam := Memory.write 0 r.2.ppu.oam (r.2.ppu.oamAddr + BitVec.ofNat 8 (255 - n)).toNat r.1 })

theorem write_setP (a : Addr) (v : Byte) (p : Flags) (s : State) :
    write a v (s.setP p) = (write a v s).map fun t => t.setP p := by
  unfold write
  split_ifs
  · rfl
  · rfl
  · rfl
  · unfold oamDma
    rw [oamDmaLoop_setP]
    cases oamDmaLoop v 256 s <;> rfl
  · rfl
  · rfl

/-! ### So it does not look at B -/

theorem read_withB (a : Addr) (b : Bool) (s : State) :
    read a (s.withB b) = (read a s).map fun r => (r.1, r.2.withB b) := by
  rw [State.withB, read_setP]
  cases h : read a s with
  | error e => rfl
  | ok r =>
    have hp : r.2.p = s.p := by rw [← ((read_ok_iff _ _ _).1 h).2, busRead_frame]
    simp only [Except.map, State.withB, hp]

theorem write_withB (a : Addr) (v : Byte) (b : Bool) (s : State) :
    write a v (s.withB b) = (write a v s).map fun t => t.withB b := by
  rw [State.withB, write_setP]
  cases h : write a v s with
  | error e => rfl
  | ok t =>
    have hp : t.p = s.p := by rw [write_frame s h]
    simp only [Except.map, State.withB, hp]

theorem fetch_withB (b : Bool) (s : State) : fetch (s.withB b) = (fetch s).map fun r => (r.1, r.2.withB b) := by
  simp only [fetch, State.withB_pc, read_withB]
  cases read s.pc s with
  | error e => rfl
  | ok r =>
    obtain ⟨op, s1⟩ := r
    simp only [Except.map]
    cases lookupOp op with
    | none => rfl
    | some row =>
      simp only [read_withB]
      generalize row.mode.operandBytes = k
      rcases k with _ | _ | n
      · rfl
      · cases read (s.pc + 1) s1 <;> rfl
      · cases read (s.pc + 1) s1 with
        | error e => rfl
        | ok r1 =>
          simp only [Except.map, read_withB]
          cases read (s.pc + 2) r1.2 <;> rfl

theorem operandByte_withB (o : Operand) (b : Bool) (s : State) :
    operandByte o (s.withB b) = (operandByte o s).map fun r => (r.1, r.2.withB b) := by
  cases o with
  | imm m => rfl
  | mem m => cases m <;> exact read_withB _ b s

theorem penalty_withB (o : Operand) (b : Bool) (s : State) : o.penalty (s.withB b) = o.penalty s := by
  cases o with
  | imm m => rfl
  | mem m => cases m <;> rfl

theorem ea_withB (m : MemOperand) (b : Bool) (s : State) : m.ea (s.withB b) = m.ea s := by
  cases m <;> rfl

theorem startInstr_withB (n : Nat) (b : Bool) (s : State) : startInstr n (s.withB b) = (startInstr n s).withB b := rfl

theorem finishInstr_withB (n : Nat) (b : Bool) (s : State) : finishInstr n (s.withB b) = (finishInstr n s).withB b := rfl

theorem push_withB (v : Byte) (b : Bool) (s : State) : push v (s.withB b) = (push v s).withB b := rfl

theorem push16_withB (w : Addr) (b : Bool) (s : State) : push16 w (s.withB b) = (push16 w s).withB b := rfl

/-- A pushed status byte does not hold the stored B (R37). -/
theorem takeInterrupt_withB (bflag : Bool) (v : Addr) (b : Bool) (s : State) :
    takeInterrupt bflag v (s.withB b) = (takeInterrupt bflag v s).withB b := by
  simp only [takeInterrupt, State.withB_p, State.withB_pc, Flags.pack_withB, push16_withB, push_withB]
  rfl

/-! ### The effects commute with setting B, or overwrite it -/

theorem readEffect_withB {e : Byte → State → State} (h : ReadEffect e) (m : Byte) (b : Bool) (s : State) :
    e m (s.withB b) = (e m s).withB b := by
  cases h <;> rfl

theorem rmwOp_withB {op : Flags → Byte → RmwResult} (h : RmwOp op) (p : Flags) (v : Byte) (b : Bool) :
    op (p.withB b) v = { value := (op p v).value, flags := (op p v).flags.withB b } := by
  cases h <;> rfl

/-- PLP and RTI overwrite B with a pulled bit; the other effects keep it. -/
theorem impliedEffect_withB {e : State → State} (h : ImpliedEffect e) (b : Bool) (s : State) :
    ∃ b', e (s.withB b) = (e s).withB b' := by
  cases h
  case plp => exact ⟨(Flags.unpack (pulled s)).b, rfl⟩
  case rti => exact ⟨(Flags.unpack (pulled s)).b, by rw [returnFromInterrupt_changes, returnFromInterrupt_changes]; rfl⟩
  all_goals exact ⟨b, rfl⟩

theorem branchCond_withB {c : State → Bool} (h : BranchCond c) (b : Bool) (s : State) : c (s.withB b) = c s := by
  cases h <;> rfl

/-! ### So do the instructions -/

theorem sameButB_next (b : Bool) (t : State) : SameButB (.next t) (.next (t.withB b)) := rfl

theorem readInstr_sameButB {o : Operand} {e : Byte → State → State} (he : ReadEffect e) (b : Bool) (s : State) :
    SameButB (readInstr o e s) (readInstr o e (s.withB b)) := by
  simp only [readInstr, startInstr_withB, operandByte_withB, penalty_withB]
  cases operandByte o (startInstr o.length s) with
  | error r => rfl
  | ok r =>
    simp only [Except.map, readEffect_withB he]
    exact sameButB_next b _

theorem writeInstr_sameButB (m : MemOperand) (v : Byte) (b : Bool) (s : State) :
    SameButB (writeInstr m v s) (writeInstr m v (s.withB b)) := by
  simp only [writeInstr, startInstr_withB, ea_withB, write_withB]
  cases write (m.ea (startInstr m.length s)) v (startInstr m.length s) with
  | error r => rfl
  | ok t => exact sameButB_next b _

theorem rmwInstr_sameButB {op : Flags → Byte → RmwResult} (ho : RmwOp op) (m : MemOperand) (b : Bool) (s : State) :
    SameButB (rmwInstr m op s) (rmwInstr m op (s.withB b)) := by
  simp only [rmwInstr, startInstr_withB, ea_withB, read_withB]
  cases read (m.ea (startInstr m.length s)) (startInstr m.length s) with
  | error r => rfl
  | ok r =>
    simp only [Except.map, State.withB_p, rmwOp_withB ho, write_withB]
    cases write (m.ea (startInstr m.length s)) (op r.2.p r.1).value r.2 with
    | error r => rfl
    | ok t => exact sameButB_next b _

theorem accInstr_sameButB {op : Flags → Byte → RmwResult} (ho : RmwOp op) (b : Bool) (s : State) :
    SameButB (accInstr op s) (accInstr op (s.withB b)) := by
  rw [accInstr_eq, accInstr_eq, State.withB_p, rmwOp_withB ho]
  rfl

theorem impliedInstr_sameButB {e : State → State} (he : ImpliedEffect e) (n : Nat) (b : Bool) (s : State) :
    SameButB (impliedInstr n e s) (impliedInstr n e (s.withB b)) := by
  obtain ⟨b', h⟩ := impliedEffect_withB he b (startInstr 1 s)
  rw [impliedInstr, impliedInstr, startInstr_withB, h]
  exact sameButB_next b' _

theorem execJmpInd_sameButB (a : Addr) (b : Bool) (s : State) :
    SameButB (execJmpInd a s) (execJmpInd a (s.withB b)) := by
  simp only [execJmpInd, startInstr_withB, read_withB]
  cases read a (startInstr 3 s) with
  | error r => rfl
  | ok r =>
    simp only [Except.map, read_withB]
    cases read (hiLo (hiByte a) (loByte a + 1)) r.2 with
    | error r => rfl
    | ok r => exact sameButB_next b _

theorem execBrk_sameButB (b : Bool) (s : State) : SameButB (execBrk s) (execBrk (s.withB b)) := by
  simp only [execBrk, startInstr_withB, State.withB_params, takeInterrupt_withB]
  cases (startInstr 2 s).params.brkPolicy with
  | vector => exact sameButB_next b _
  | halt => exact sameButB_next b _

theorem shape_sameButB {f : State → Host.Outcome State Fault Refusal} (hf : Shape f) (b : Bool) (s : State) :
    SameButB (f s) (f (s.withB b)) := by
  cases hf with
  | read o he => exact readInstr_sameButB he b s
  | sta m => exact writeInstr_sameButB m s.a b s
  | stx m => exact writeInstr_sameButB m s.x b s
  | sty m => exact writeInstr_sameButB m s.y b s
  | rmw m ho => exact rmwInstr_sameButB ho m b s
  | acc ho => exact accInstr_sameButB ho b s
  | implied n he => exact impliedInstr_sameButB he n b s
  | branch hc off =>
    simp only [branchCond_withB hc, branchInstr_eq]
    rfl
  | jmpAbs a => exact sameButB_next b _
  | jmpInd a => exact execJmpInd_sameButB a b s
  | jsr a => exact sameButB_next b _
  | brk => exact execBrk_sameButB b s

/-! ### So does the step -/

theorem event_withB (b : Bool) (s : State) : event (s.withB b) = event s := rfl

theorem nmiEntry_withB (b : Bool) (s : State) : nmiEntry (s.withB b) = (nmiEntry s).withB b := by
  rw [nmiEntry, State.withB_params, takeInterrupt_withB]
  rfl

theorem irqEntry_withB (b : Bool) (s : State) : irqEntry (s.withB b) = (irqEntry s).withB b := by
  rw [irqEntry, State.withB_params, takeInterrupt_withB]
  rfl

theorem afterCpu_withB (b : Bool) (s : State) : afterCpu (s.withB b) = (afterCpu s).withB b := rfl

/-- What the driver does of an instruction's outcome: its part after a next state, the fault or the refusal as it is. -/
theorem sameButB_afterCpu {o q : Host.Outcome State Fault Refusal} (h : SameButB o q) :
    SameButB (mapNext afterCpu o) (mapNext afterCpu q) := by
  cases o <;> cases q
  case next.next t u =>
    have hu : u = t.withB u.p.b := h
    rw [hu]
    exact sameButB_next _ _
  case fault.fault => exact h
  case refused.refused => exact h
  all_goals exact h.elim

/-- Settles O36: the fetch commutes with setting B, every instruction does or overwrites it, and the driver's part does. -/
theorem breakFlagIsNeverRead : Obligations.BreakFlagIsNeverRead := by
  intro s b
  change SameButB (step s) (step (s.withB b))
  simp only [step, State.withB_status, event_withB, nmiEntry_withB, irqEntry_withB, afterCpu_withB, fetch_withB]
  cases s.status with
  | halted => exact sameButB_next b s
  | faulted r => rfl
  | running =>
    cases event s with
    | nmi => exact sameButB_next b _
    | irq => exact sameButB_next b _
    | step =>
      cases fetch s with
      | error r => rfl
      | ok r => exact sameButB_afterCpu (shape_sameButB (exec_shape r.1) b r.2)

end Sys2Proof.Machine
end

section
/-! The picture unit's registers through the bus (O43 to O46): what a write to each changes, what a read gives, and the two pairs
of writes on numbers. -/

namespace Sys2Proof.Machine

open Claims

variable {s : State} {u : Ppu} {a : Addr} {n : Nat}

/-! ### The register an address selects -/

theorem write_ppuRegister (d : Byte) (ha : inPpuWindow a) (hn : a.toNat % 8 = n) :
    write a d s = .ok (s.setPpu (Ppu.writeReg s.cart s.ppu n d)) := by
  rw [write_ppu s d ha.1 ha.2, ppuRegister, hn]

theorem read_ppuRegister (ha : inPpuWindow a) (hn : a.toNat % 8 = n) : read a s = .ok (readPpu n s) := by
  rw [read_of_mapped s (unmapped_false_of_lt (by have := ha.2; omega)), busRead_ppu s ha.1 ha.2, ppuRegister, hn]

theorem writeReg_scroll (c : Cartridge) (u : Ppu) (d : Byte) : Ppu.writeReg c u 5 d = u.writeScroll d := rfl
theorem writeReg_addr (c : Cartridge) (u : Ppu) (d : Byte) : Ppu.writeReg c u 6 d = u.writeAddr d := rfl
theorem writeReg_data (c : Cartridge) (u : Ppu) (d : Byte) : Ppu.writeReg c u 7 d = Ppu.writeData c u d := rfl

/-! ### PPUSCROLL and PPUADDR by the toggle -/

/-- Taking three bits of a byte is masking the others first. -/
theorem setWidth_and_seven (d : Byte) : (d &&& 0x07#8).setWidth 3 = d.setWidth 3 := by
  rw [BitVec.setWidth_and]
  exact BitVec.and_allOnes

/-- The first write of a pair sets coarse and fine X (R65). -/
theorem writeScroll_first (hw : u.w = false) (d : Byte) : u.writeScroll d =
    { u with t := (u.t &&& ~~~0x001F#15) ||| (d >>> 3).setWidth 15, x := (d &&& 0x07#8).setWidth 3, w := true } := by
  rw [setWidth_and_seven]
  simp [Ppu.writeScroll, hw]

/-- The second write of a pair sets coarse and fine Y (R65). -/
theorem writeScroll_second (hw : u.w = true) (d : Byte) : u.writeScroll d =
    { u with
      t := (u.t &&& ~~~0x73E0#15) ||| ((d &&& 0x07#8).setWidth 15 <<< 12) ||| ((d >>> 3).setWidth 15 <<< 5), w := false } := by
  simp [Ppu.writeScroll, hw]

/-- The first write of a pair sets the high six bits of `t` (R66). -/
theorem writeAddr_first (hw : u.w = false) (d : Byte) : u.writeAddr d =
    { u with t := (u.t &&& 0x00FF#15) ||| ((d &&& 0x3F#8).setWidth 15 <<< 8), w := true } := by
  simp [Ppu.writeAddr, hw]

/-- The second write of a pair sets the low eight bits of `t`, and `v` to it (R66). -/
theorem writeAddr_second (hw : u.w = true) (d : Byte) : u.writeAddr d =
    { u with t := (u.t &&& 0x7F00#15) ||| d.setWidth 15, v := (u.t &&& 0x7F00#15) ||| d.setWidth 15, w := false } := by
  simp [Ppu.writeAddr, hw]

/-- Settles O43: each register's write is the handler of the register the address selects, by the toggle where it has one. -/
theorem ppuRegisterWrites : Obligations.PpuRegisterWrites := by
  intro s a d ha
  refine ⟨fun h => ?_, fun h => ?_, fun h => ?_, fun h => ?_, fun h hw => ?_, fun h hw => ?_, fun h hw => ?_,
    fun h hw => ?_⟩ <;> rw [write_ppuRegister d ha h]
  case refine_5 => rw [writeReg_scroll, writeScroll_first hw]; rfl
  case refine_6 => rw [writeReg_scroll, writeScroll_second hw]; rfl
  case refine_7 => rw [writeReg_addr, writeAddr_first hw]; rfl
  case refine_8 => rw [writeReg_addr, writeAddr_second hw]; rfl
  all_goals rfl

/-! ### The two pairs on numbers -/

/-- `t` after two PPUSCROLL writes: fine Y, the nametable bits as they were, coarse Y, coarse X. -/
theorem toNat_scrollPair (t : VAddr) (d1 d2 : Byte) :
    ((((t &&& ~~~0x001F#15) ||| (d1 >>> 3).setWidth 15) &&& ~~~0x73E0#15) ||| ((d2 &&& 0x07#8).setWidth 15 <<< 12) |||
        ((d2 >>> 3).setWidth 15 <<< 5)).toNat =
      d2.toNat % 8 * 4096 + t.toNat / 1024 % 4 * 1024 + d2.toNat / 8 * 32 + d1.toNat / 8 := by
  have join : (((t &&& ~~~0x001F#15) ||| (d1 >>> 3).setWidth 15) &&& ~~~0x73E0#15) |||
        ((d2 &&& 0x07#8).setWidth 15 <<< 12) ||| ((d2 >>> 3).setWidth 15 <<< 5) =
      d2.extractLsb' 0 3 ++ (t.extractLsb' 10 2 ++ (d2.extractLsb' 3 5 ++ d1.extractLsb' 3 5)) := by
    apply BitVec.eq_of_getLsbD_eq
    intro i hi
    simp only [BitVec.getLsbD_append, BitVec.getLsbD_or, BitVec.getLsbD_and, BitVec.getLsbD_not, BitVec.getLsbD_setWidth,
      BitVec.getLsbD_extractLsb', BitVec.getLsbD_shiftLeft, BitVec.getLsbD_ushiftRight]
    interval_cases i <;> simp
  rw [join]
  simp only [toNat_join, toNat_extract]
  omega

/-- `t` after two PPUADDR writes: the low six bits of the first byte over the second byte. -/
theorem toNat_addrPair (t : VAddr) (d1 d2 : Byte) :
    ((((t &&& 0x00FF#15) ||| ((d1 &&& 0x3F#8).setWidth 15 <<< 8)) &&& 0x7F00#15) ||| d2.setWidth 15).toNat =
      d1.toNat % 64 * 256 + d2.toNat := by
  have join : (((t &&& 0x00FF#15) ||| ((d1 &&& 0x3F#8).setWidth 15 <<< 8)) &&& 0x7F00#15) ||| d2.setWidth 15 =
      0#1 ++ (d1.extractLsb' 0 6 ++ d2) := by
    apply BitVec.eq_of_getLsbD_eq
    intro i hi
    simp only [BitVec.getLsbD_append, BitVec.getLsbD_or, BitVec.getLsbD_and, BitVec.getLsbD_setWidth,
      BitVec.getLsbD_extractLsb', BitVec.getLsbD_shiftLeft]
    interval_cases i <;> simp
  rw [join]
  simp only [toNat_join, toNat_extract, BitVec.toNat_ofNat]
  omega

/-- Settles O44: `t` after each pair is the sum of its fields, which are read off. -/
theorem scrollAndAddressPairs : Obligations.ScrollAndAddressPairs := by
  intro c u d1 d2 hw
  have h1 := d1.isLt
  have h2 := d2.isLt
  constructor
  · have ht := toNat_scrollPair u.t d1 d2
    have hn : u.t.toNat / 1024 % 4 < 4 := Nat.mod_lt _ (by decide)
    rw [writeReg_scroll, writeReg_scroll, writeScroll_first hw, writeScroll_second rfl]
    refine ⟨rfl, rfl, ?_, ?_, ?_, ?_, ?_⟩
    · rw [setWidth_and_seven, BitVec.toNat_setWidth]
    · rw [ht]
      omega
    · rw [ht]
      omega
    · have hl : d2.toNat / 8 * 32 + d1.toNat / 8 < 1024 := by omega
      rw [ht, Nat.add_assoc]
      generalize d2.toNat / 8 * 32 + d1.toNat / 8 = l at hl ⊢
      omega
    · rw [ht]
      omega
  · rw [writeReg_addr, writeReg_addr, writeAddr_first hw, writeAddr_second rfl]
    exact ⟨rfl, rfl, toNat_addrPair u.t d1 d2⟩

/-! ### PPUSTATUS -/

/-- The three flags of a status byte over the five low bits of open bus (R62). -/
theorem statusByte_bits (u : Ppu) (o : Byte) :
    (u.statusByte o).getLsbD 7 = u.vblank ∧ (u.statusByte o).getLsbD 6 = u.sprite0Hit ∧
      (u.statusByte o).getLsbD 5 = u.spriteOverflow ∧ u.statusByte o &&& 0x1F#8 = o &&& 0x1F#8 := by
  unfold Ppu.statusByte
  refine ⟨?_, ?_, ?_, ?_⟩
  iterate 3 cases u.vblank <;> cases u.sprite0Hit <;> cases u.spriteOverflow <;> simp
  rw [BitVec.and_or_distrib_right, BitVec.and_assoc, BitVec.and_self]
  cases u.vblank <;> cases u.sprite0Hit <;> cases u.spriteOverflow <;> exact BitVec.zero_or

/-- Settles O45: the bus read of register 2 is a status read, whose byte has the flags as they stood. -/
theorem statusReadClearsVblank : Obligations.StatusReadClearsVblank := by
  intro s a ha h
  refine ⟨fun d => by rw [write_ppuRegister d ha h]; rfl, s.ppu.statusByte s.drawByte.1, ?_, statusByte_bits _ _⟩
  rw [read_ppuRegister ha h]
  rfl

/-! ### OAMDATA and PPUDATA -/

theorem ppuWrite_v (c : Cartridge) (u : Ppu) (a : PpuAddr) (d : Byte) : (ppuWrite c u a d).v = u.v := by
  unfold ppuWrite
  split_ifs <;> rfl

theorem ppuWrite_ctrl (c : Cartridge) (u : Ppu) (a : PpuAddr) (d : Byte) : (ppuWrite c u a d).ctrl = u.ctrl := by
  unfold ppuWrite
  split_ifs <;> rfl

/-- A PPUDATA write stores in the PPU space and moves `v` on (R67). -/
theorem writeData_eq (c : Cartridge) (u : Ppu) (d : Byte) : Ppu.writeData c u d =
    { ppuWrite c u u.dataAddr d with v := u.v + if u.ctrl.getLsbD 2 then 32 else 1 } := by
  simp only [Ppu.writeData, Ppu.bumpV, ppuWrite_v, ppuWrite_ctrl]

theorem isPalette_iff (a : PpuAddr) : isPalette a = true ↔ 0x3F00 ≤ a.toNat := by simp [isPalette]

/-- A PPUDATA read below the palette answers the buffer and refills it (R67). -/
theorem readPpu_data_below (h : s.ppu.dataAddr.toNat < 0x3F00) : readPpu 7 s = (s.ppu.readBuffer, s.setPpu { s.ppu with
    readBuffer := ppuRead s.cart s.ppu 0 s.ppu.dataAddr, v := s.ppu.v + if s.ppu.ctrl.getLsbD 2 then 32 else 1 }) := by
  have hp : isPalette s.ppu.dataAddr = false := by rw [Bool.eq_false_iff, ne_eq, isPalette_iff]; omega
  simp [readPpu, hp, Ppu.dataByte, Ppu.afterDataRead, Ppu.refillByte, Ppu.bumpV]

/-- A PPUDATA read in the palette answers the entry and refills the buffer from beneath it (R67). -/
theorem readPpu_data_palette (h : 0x3F00 ≤ s.ppu.dataAddr.toNat) : readPpu 7 s =
    (ppuRead s.cart s.ppu (Config.draw s.draws) s.ppu.dataAddr, (s.setDraws (s.draws + 1)).setPpu { s.ppu with
      readBuffer := ppuRead s.cart s.ppu 0 (s.ppu.dataAddr - 0x1000)
      v := s.ppu.v + if s.ppu.ctrl.getLsbD 2 then 32 else 1 }) := by
  have hp : isPalette s.ppu.dataAddr = true := (isPalette_iff _).2 h
  simp [readPpu, hp, Ppu.dataByte, Ppu.afterDataRead, Ppu.refillByte, Ppu.bumpV]

/-- Settles O46: registers 4 and 7 through the bus, the PPUDATA read by the region of `v`. -/
theorem dataPorts : Obligations.DataPorts := by
  intro s a d ha
  refine ⟨fun h => ⟨?_, ?_⟩, fun h => ⟨?_, fun hp => ?_, fun hp => ?_⟩⟩
  · rw [write_ppuRegister d ha h]
    rfl
  · rw [read_ppuRegister ha h]
    rfl
  · rw [write_ppuRegister d ha h]
    rw [writeReg_data, writeData_eq]
    rfl
  · rw [read_ppuRegister ha h, readPpu_data_below hp]
    rfl
  · rw [read_ppuRegister ha h, readPpu_data_palette hp]
    rfl

end Sys2Proof.Machine
end

section
/-! The background pipeline (O51): the fields of each part of a dot's work, and what a tick makes of them on numbers. -/

namespace Sys2Proof.Machine

variable (c : Cartridge) (u : Ppu)

/-! ### A dot's background work, field by field -/

/-- What each of the eight dots of a tile fetch sets (R371). -/
theorem fetchPhase_eq (n : Nat) : Ppu.fetchPhase c n u = { u with
    ntLatch := if n = 0 then ppuRead c u 0 u.ntAddr else u.ntLatch
    atLatch := if n = 2 then (u.fetchAt c).atLatch else u.atLatch
    ptLoLatch := if n = 4 then ppuRead c u 0 u.ptAddr else u.ptLoLatch
    ptHiLatch := if n = 6 then ppuRead c u 0 (u.ptAddr + 8) else u.ptHiLatch
    v := if n = 7 then incCoarseX u.v else u.v
    shPatLo := if n = 0 then u.loadBg.shPatLo else u.shPatLo
    shPatHi := if n = 0 then u.loadBg.shPatHi else u.shPatHi
    shAttLo := if n = 0 then u.loadBg.shAttLo else u.shAttLo
    shAttHi := if n = 0 then u.loadBg.shAttHi else u.shAttHi } := by
  unfold Ppu.fetchPhase
  split
  iterate 5 rfl
  rename_i h0 h2 h4 h6 h7
  simp only [if_neg h0, if_neg h2, if_neg h4, if_neg h6, if_neg h7]

theorem fetchDot_iff (d : Nat) : fetchDot d = true ↔ (2 ≤ d ∧ d ≤ 257) ∨ (321 ≤ d ∧ d ≤ 337) := by simp [fetchDot]

/-- A register shifted and, on the first dot of a tile, loaded (R372). -/
def shiftLoad (d : Nat) (r : BitVec 16) (low : Byte) : BitVec 16 :=
  if fetchDot d then (if d % 8 = 1 then loadLow (r <<< 1) low else r <<< 1) else r

/-- `v` after the dot's step to the next tile (R375). -/
def tileStep (d : Nat) (v : VAddr) : VAddr := if fetchDot d ∧ d % 8 = 0 then incCoarseX v else v

/-- The first part of a dot's background work: the shift and the fetch (R371). -/
def Ppu.fetchWork (d : Nat) : Ppu := if fetchDot d then Ppu.fetchPhase c ((d - 1) % 8) u.shiftBg else u

theorem fetchWork_eq (d : Nat) : u.fetchWork c d = { u with
    ntLatch := if fetchDot d ∧ d % 8 = 1 then ppuRead c u 0 u.ntAddr else u.ntLatch
    atLatch := if fetchDot d ∧ d % 8 = 3 then (u.fetchAt c).atLatch else u.atLatch
    ptLoLatch := if fetchDot d ∧ d % 8 = 5 then ppuRead c u 0 u.ptAddr else u.ptLoLatch
    ptHiLatch := if fetchDot d ∧ d % 8 = 7 then ppuRead c u 0 (u.ptAddr + 8) else u.ptHiLatch
    v := tileStep d u.v
    shPatLo := shiftLoad d u.shPatLo u.ptLoLatch
    shPatHi := shiftLoad d u.shPatHi u.ptHiLatch
    shAttLo := shiftLoad d u.shAttLo (spread (u.atLatch.getLsbD 0))
    shAttHi := shiftLoad d u.shAttHi (spread (u.atLatch.getLsbD 1)) } := by
  unfold Ppu.fetchWork tileStep shiftLoad
  by_cases hf : fetchDot d = true
  · have hd := (fetchDot_iff d).1 hf
    have phase : ∀ k, k < 8 → ((d - 1) % 8 = k ↔ d % 8 = (k + 1) % 8) := by omega
    simp only [fetchPhase_eq, hf, phase, true_and, if_true, Nat.reduceLT, Nat.reduceAdd, Nat.reduceMod]
    rfl
  · simp only [hf, false_and, if_false, Bool.false_eq_true]

/-- `v` after a dot's work: the next tile, then the next line or the bits of `t` (R371). -/
def moveV (s d : Nat) (v t : VAddr) : VAddr :=
  if d = 256 then incY (tileStep d v)
  else if d = 257 then (tileStep d v &&& ~~~0x041F#15) ||| (t &&& 0x041F#15)
  else if s = 261 ∧ 280 ≤ d ∧ d ≤ 304 then (tileStep d v &&& ~~~0x7BE0#15) ||| (t &&& 0x7BE0#15)
  else tileStep d v

theorem loadLow_loadLow (r : BitVec 16) (b : Byte) : loadLow (loadLow r b) b = loadLow r b := by
  apply BitVec.eq_of_toNat_eq
  have := b.isLt
  rw [toNat_loadLow, toNat_loadLow]
  omega

/-- Dot 257 shifts and loads the registers in its fetch; its second load of them changes nothing (R371). -/
theorem loadBg_fetchWork_257 : (u.fetchWork c 257).loadBg = u.fetchWork c 257 := by
  have hf : fetchDot 257 = true := rfl
  rw [fetchWork_eq]
  simp only [Ppu.loadBg, shiftLoad, hf, Nat.reduceMod, if_true, Nat.reduceEqDiff, and_false, if_false, loadLow_loadLow]

/-- After its shift and fetch, a dot's background work moves `v` and nothing else (R371). -/
theorem backgroundDot_eq (s d : Nat) :
    u.backgroundDot c s d = { u.fetchWork c d with v := moveV s d u.v u.t } := by
  have hv : (u.fetchWork c d).v = tileStep d u.v := by rw [fetchWork_eq]
  have ht : (u.fetchWork c d).t = u.t := by rw [fetchWork_eq]
  unfold moveV
  rw [← hv, ← ht]
  change (let w := u.fetchWork c d
    let w := if d = 256 then { w with v := incY w.v } else w
    let w := if d = 257 then w.loadBg.copyHorizontal else w
    if s = 261 ∧ 280 ≤ d ∧ d ≤ 304 then w.copyVertical else w) = _
  dsimp only
  by_cases h1 : d = 256
  · rw [if_pos h1, if_neg (by omega), if_neg (by omega), if_pos h1]
  · rw [if_neg h1, if_neg h1]
    by_cases h2 : d = 257
    · rw [if_pos h2, if_neg (by omega), if_pos h2, h2, loadBg_fetchWork_257]
      rfl
    · rw [if_neg h2, if_neg h2]
      by_cases h3 : s = 261 ∧ 280 ≤ d ∧ d ≤ 304
      · rw [if_pos h3, if_pos h3]
        rfl
      · rw [if_neg h3, if_neg h3]

/-! ### The fetches and the shifts on numbers -/

/-- The two palette-group bits `fetch_at` keeps of the byte, by bit 1 of coarse Y and of coarse X (R374). -/
theorem toNat_fetchAt : (u.fetchAt c).atLatch.toNat =
    (ppuRead c u 0 u.atAddr).toNat / 2 ^ (u.v.toNat / 64 % 2 * 4 + u.v.toNat / 2 % 2 * 2) % 4 := by
  have bit : ∀ k, u.v.getLsbD k = decide (u.v.toNat / 2 ^ k % 2 = 1) := fun k => by
    rw [BitVec.getLsbD, Nat.testBit_eq_decide_div_mod_eq]
  simp only [Ppu.fetchAt, bit, decide_eq_true_eq]
  generalize ppuRead c u 0 u.atAddr = b
  rcases Nat.mod_two_eq_zero_or_one (u.v.toNat / 64) with h6 | h6 <;>
    rcases Nat.mod_two_eq_zero_or_one (u.v.toNat / 2) with h1 | h1 <;>
    simp [h6, h1, Nat.shiftRight_eq_div_pow]

theorem toNat_shiftLoad (d : Nat) (r : BitVec 16) (low : Byte) : (shiftLoad d r low).toNat =
    if fetchDot d then (if d % 8 = 1 then r.toNat * 2 % 65536 / 256 * 256 + low.toNat else r.toNat * 2 % 65536)
    else r.toNat := by
  have hs : (r <<< 1).toNat = r.toNat * 2 % 65536 := by rw [BitVec.toNat_shiftLeft, Nat.shiftLeft_eq]
  unfold shiftLoad
  rw [apply_ite BitVec.toNat, apply_ite BitVec.toNat, toNat_loadLow, hs]

/-- The address of a tile row's high pattern byte is eight above that of the low one (R374). -/
theorem ptAddr_add_eight : u.ptAddr + 8 = BitVec.ofNat 14
    ((if u.ctrl.getLsbD 4 then 0x1000 else 0) + u.ntLatch.toNat * 16 + u.v.toNat / 4096 + 8) := by
  rw [ptAddr_eq, BitVec.ofNat_add _ 8]
  rfl

/-! ### A tick -/

theorem Ppu.SamePipeline.trans {u w z : Ppu} (h : u.SamePipeline w) (k : w.SamePipeline z) : u.SamePipeline z :=
  ⟨k.v.trans h.v, k.ntLatch.trans h.ntLatch, k.atLatch.trans h.atLatch, k.ptLoLatch.trans h.ptLoLatch,
    k.ptHiLatch.trans h.ptHiLatch, k.shPatLo.trans h.shPatLo, k.shPatHi.trans h.shPatHi, k.shAttLo.trans h.shAttLo,
    k.shAttHi.trans h.shAttHi⟩

variable (skip : Bool)

/-- A tick's work is that of the position the counters reach, which is the tick's own. -/
theorem tick_position : (tick c skip u).ppu.scanline = (u.advance skip).1.scanline ∧
    (tick c skip u).ppu.dot = (u.advance skip).1.dot :=
  ⟨(dotWork_keeps c _).scanline, (dotWork_keeps c _).dot⟩

/-- The counters' move leaves the four flags alone (R361). -/
theorem advance_flags : (u.advance skip).1.vblank = u.vblank ∧ (u.advance skip).1.nmiPending = u.nmiPending ∧
    (u.advance skip).1.sprite0Hit = u.sprite0Hit ∧ (u.advance skip).1.spriteOverflow = u.spriteOverflow := by
  rcases advance_cases skip u with ⟨-, -, h⟩ | ⟨-, -, -, h⟩ | ⟨-, h⟩ <;> rw [h] <;> exact ⟨rfl, rfl, rfl, rfl⟩

/-- A tick that completes no frame leaves the parity, the handed-out frame and its flag alone (R390). -/
theorem tick_of_not_frameDone (h : (tick c skip u).frameDone = false) : (tick c skip u).ppu.oddFrame = u.oddFrame ∧
    (tick c skip u).ppu.presented = u.presented ∧ (tick c skip u).ppu.frameComplete = u.frameComplete := by
  have k := dotWork_keeps c (u.advance skip).1
  have hd : (u.advance skip).2 = false := h
  refine ⟨k.oddFrame.trans ?_, k.presented.trans ?_, k.frameComplete.trans ?_⟩ <;>
    rcases advance_cases skip u with ⟨-, -, ha⟩ | ⟨-, -, -, ha⟩ | ⟨-, ha⟩ <;> simp_all

/-- A tick that completes a frame is at (0, 0), turns the parity and hands the frame out (R390). -/
theorem tick_of_frameDone (h : (tick c skip u).frameDone = true) :
    (tick c skip u).ppu.scanline = 0 ∧ (tick c skip u).ppu.dot = 0 ∧ (tick c skip u).ppu.oddFrame = !u.oddFrame ∧
      (tick c skip u).ppu.presented = some u.frame ∧ (tick c skip u).ppu.frameComplete = true := by
  have k := dotWork_keeps c (u.advance skip).1
  have hd : (u.advance skip).2 = true := h
  rcases advance_cases skip u with ⟨-, -, ha⟩ | ⟨-, -, -, ha⟩ | ⟨-, ha⟩
  · rw [ha] at hd; cases hd
  · rw [ha] at hd; cases hd
  · refine ⟨k.scanline.trans ?_, k.dot.trans ?_, k.oddFrame.trans ?_, k.presented.trans ?_, k.frameComplete.trans ?_⟩ <;>
      rw [ha] <;> rfl

/-- Where the background has no work, a tick leaves the pipeline alone (R363, R370). -/
theorem tick_pipeline_idle (h : ¬(renderingEnabled u = true ∧
      ((tick c skip u).ppu.scanline ≤ 239 ∨ (tick c skip u).ppu.scanline = 261))) :
    u.SamePipeline (tick c skip u).ppu := by
  have hm : renderingEnabled (u.advance skip).1 = renderingEnabled u := by
    simp only [renderingEnabled, (advance_keepsRegs skip u).mask]
  rw [(tick_position c u skip).1] at h
  have k := dotWork_pipeline c (u.advance skip).1
  rw [hm] at k
  by_cases hr : renderingEnabled u = true
  · rw [if_pos hr, Ppu.backgroundWork, if_neg fun hs => h ⟨hr, hs⟩] at k
    exact (advance_pipeline skip u).trans k
  · rw [if_neg hr] at k
    exact (advance_pipeline skip u).trans k

/-- Where the background has work, a tick's pipeline is that of `backgroundDot` at its position (R371). -/
theorem tick_pipeline_works (h : renderingEnabled u = true ∧
      ((tick c skip u).ppu.scanline ≤ 239 ∨ (tick c skip u).ppu.scanline = 261)) :
    ((u.advance skip).1.backgroundDot c (tick c skip u).ppu.scanline (tick c skip u).ppu.dot).SamePipeline
      (tick c skip u).ppu := by
  have hm : renderingEnabled (u.advance skip).1 = renderingEnabled u := by
    simp only [renderingEnabled, (advance_keepsRegs skip u).mask]
  obtain ⟨es, ed⟩ := tick_position c u skip
  rw [es] at h
  have k := dotWork_pipeline c (u.advance skip).1
  rw [hm, if_pos h.1, Ppu.backgroundWork, if_pos h.2] at k
  rw [es, ed]
  exact k

/-- Settles O51: the registers by `tick_keepsRegs`, the flags by the dot's work at the position reached, the end of a frame by
`advance_cases`, and the pipeline by `backgroundDot_eq`, field by field on numbers. -/
theorem backgroundPipeline : Obligations.BackgroundPipeline := by
  intro c skip u w d works fetches fetched v pattern moved v1 starts clears
  have kr := tick_keepsRegs c skip u
  obtain ⟨es, ed⟩ := tick_position c u skip
  have ka := advance_keepsRegs skip u
  refine ⟨⟨kr.vram, kr.palette, kr.oam, kr.ctrl, kr.mask, kr.oamAddr, kr.t, kr.x, kr.w, kr.readBuffer⟩, ?_,
    tick_of_not_frameDone c u skip, tick_of_frameDone c u skip, fun h => ?_, fun h => ?_⟩
  · obtain ⟨a1, a2, a3, a4⟩ := advance_flags u skip
    obtain ⟨f1, f2⟩ := dotWork_flags c (u.advance skip).1
    obtain ⟨f3, f4⟩ := dotWork_spriteFlags c (u.advance skip).1
    rw [← es, ← ed] at f1 f2 f3 f4
    rw [a1] at f2
    rw [a2, ka.ctrl] at f1
    rw [a3] at f3
    rw [a4] at f4
    exact ⟨f2, f1, f3, f4⟩
  · have k := tick_pipeline_idle c u skip h
    exact ⟨k.v, k.ntLatch, k.atLatch, k.ptLoLatch, k.ptHiLatch, k.shPatLo, k.shPatHi, k.shAttLo, k.shAttHi⟩
  · have k := tick_pipeline_works c u skip h
    have hz := advance_pipeline skip u
    have hr : ∀ a, ppuRead c (u.advance skip).1 0 a = ppuRead c u 0 a := fun a => ppuRead_congr c 0 a ka.vram ka.palette
    rw [backgroundDot_eq, fetchWork_eq] at k
    refine ⟨?_, ?_, ?_, ?_, ?_, ?_, ?_, ?_, ?_⟩
    · rw [k.ntLatch]
      simp only [apply_ite BitVec.toNat, ntAddr_eq, hr, hz.ntLatch, hz.v, fetchDot_iff]
      rfl
    · rw [k.atLatch]
      simp only [apply_ite BitVec.toNat, toNat_fetchAt, atAddr_eq, hr, hz.atLatch, hz.v, fetchDot_iff]
      rfl
    · rw [k.ptLoLatch]
      simp only [apply_ite BitVec.toNat, ptAddr_eq, hr, hz.ptLoLatch, hz.ntLatch, hz.v, ka.ctrl, fetchDot_iff]
      rfl
    · rw [k.ptHiLatch]
      simp only [apply_ite BitVec.toNat, ptAddr_add_eight, hr, hz.ptHiLatch, hz.ntLatch, hz.v, ka.ctrl, fetchDot_iff]
      rfl
    · rw [k.shPatLo]
      simp only [toNat_shiftLoad, hz.shPatLo, hz.ptLoLatch, fetchDot_iff]
      rfl
    · rw [k.shPatHi]
      simp only [toNat_shiftLoad, hz.shPatHi, hz.ptHiLatch, fetchDot_iff]
      rfl
    · rw [k.shAttLo]
      simp only [toNat_shiftLoad, toNat_spread, hz.shAttLo, hz.atLatch, fetchDot_iff]
      rfl
    · rw [k.shAttHi]
      simp only [toNat_shiftLoad, toNat_spread, hz.shAttHi, hz.atLatch, fetchDot_iff]
      rfl
    · rw [k.v]
      simp only [moveV, tileStep, hz.v, ka.t, fetchDot_iff]
      rfl

end Sys2Proof.Machine
end

section
/-! OAM DMA (O42): the loop is the 256 copies in order, and what they leave by the region of the page. -/

namespace Sys2Proof.Machine

open Claims

variable {s t : State} {d : Byte}

/-! ### The loop is the copies -/

/-- Every page but 0x40 is mapped (R115). -/
theorem unmapped_page (hd : d ≠ 0x40#8) (i : Byte) : unmapped (hiLo d i) = false := by
  rw [Bool.eq_false_iff]
  intro hu
  rw [unmapped_iff, toNat_hiLo] at hu
  have hi := i.isLt
  exact hd (BitVec.eq_of_toNat_eq (by simp; omega))

/-- What the loop still has to do after the first copies gives all 256 of them. -/
theorem oamDmaLoop_afterCopies (hd : d ≠ 0x40#8) (s : State) (n : Nat) (hn : n ≤ 256) :
    oamDmaLoop d n (afterCopies d (256 - n) s) = .ok (afterCopies d 256 s) := by
  induction n with
  | zero => rfl
  | succ n ih =>
    have e1 : 256 - (n + 1) = 255 - n := by omega
    have e2 : 256 - n = 255 - n + 1 := by omega
    rw [e2] at ih
    simp only [oamDmaLoop, e1, read_of_mapped _ (unmapped_page hd _)]
    exact ih (by omega)

/-- A DMA from a mapped page is the 256 copies and the cycles (R113). -/
theorem write_dma_afterCopies (hd : d ≠ 0x40#8) (s : State) : write 0x4014 d s =
    .ok { afterCopies d 256 s with extraCycles := s.extraCycles + s.params.oamDmaCycles } := by
  have h : oamDmaLoop d 256 s = .ok (afterCopies d 256 s) := oamDmaLoop_afterCopies hd s 256 le_rfl
  obtain ⟨u, c, k, hk⟩ := oamDmaLoop_changes d 256 h
  have he : (afterCopies d 256 s).extraCycles = s.extraCycles := by rw [hk]; rfl
  have hp : (afterCopies d 256 s).params = s.params := by rw [hk]; rfl
  rw [write_dma s d rfl, oamDma, h, ← he, ← hp]
  rfl

/-- A DMA from page 0x40 faults at its first unmapped address (R115). -/
theorem write_dma_faults (s : State) : write 0x4014 0x40#8 s = .error (.unmappedAddress 0x4018#16) :=
  write_error_of_storeFaults s rfl

/-! ### Where the copies go -/

/-- The byte of OAM in the place of byte `i` of a page, from `oam_addr` `base` on, wrapping. -/
def oamAt (base : Byte) (m : Memory Byte) (i : Nat) : Byte := Memory.read 0 m (base + BitVec.ofNat 8 i).toNat

/-- OAM with a byte stored in the place of byte `i` of a page. -/
def oamPut (base : Byte) (m : Memory Byte) (i : Nat) (b : Byte) : Memory Byte :=
  Memory.write 0 m (base + BitVec.ofNat 8 i).toNat b

@[simp] theorem oamAt_oamPut_self (base : Byte) (m : Memory Byte) (i : Nat) (b : Byte) :
    oamAt base (oamPut base m i b) i = b :=
  Memory.read_write_self _ _ _ _

/-- Two bytes of a page have different places. -/
theorem oamAt_oamPut_of_lt (base : Byte) (m : Memory Byte) (b : Byte) {i n : Nat} (hi : i < n) (hn : n < 256) :
    oamAt base (oamPut base m n b) i = oamAt base m i := by
  refine Memory.read_write_other _ _ _ _ _ fun h => ?_
  have e := congrArg BitVec.toNat ((BitVec.add_right_inj base).1 (BitVec.eq_of_toNat_eq h))
  simp only [BitVec.toNat_ofNat] at e
  omega

/-- The place of a byte of the page, by the byte. -/
theorem oamAt_toNat (base : Byte) (m : Memory Byte) (i : Byte) :
    Memory.read 0 m (base + i).toNat = oamAt base m i.toNat := by
  simp [oamAt]

theorem oamAt_zero (base : Byte) (m : Memory Byte) : oamAt base m 0 = Memory.read 0 m base.toNat := by
  simp [oamAt]

/-- OAM with the first `n` bytes of `f` stored in their places. -/
def oamFill (base : Byte) (f : Nat → Byte) : Nat → Memory Byte → Memory Byte
  | 0, m => m
  | n + 1, m => oamPut base (oamFill base f n m) n (f n)

theorem oamAt_oamFill (base : Byte) (f : Nat → Byte) (m : Memory Byte) {i n : Nat} (hi : i < n) (hn : n ≤ 256) :
    oamAt base (oamFill base f n m) i = f i := by
  induction n with
  | zero => omega
  | succ n ih =>
    rw [oamFill]
    rcases Nat.lt_succ_iff_lt_or_eq.1 hi with h | rfl
    · rw [oamAt_oamPut_of_lt base _ _ h (by omega), ih h (by omega)]
    · exact oamAt_oamPut_self _ _ _ _

/-! ### Pages of plain memory and of empty cartridge space -/

theorem busRead_of_peek {a : Addr} {b : Byte} (h : s.peek a = some b) : busRead a s = (b, s) :=
  ((read_ok_iff s a _).1 (read_of_peek s h)).2

/-- Copies of plain memory fill OAM with it and change nothing else. -/
theorem afterCopies_plain {f : Nat → Byte} (hf : ∀ i, s.peek (hiLo d (BitVec.ofNat 8 i)) = some (f i)) (n : Nat) :
    afterCopies d n s = s.setPpu { s.ppu with oam := oamFill s.ppu.oamAddr f n s.ppu.oam } := by
  induction n with
  | zero => rfl
  | succ n ih =>
    have hp : (s.setPpu { s.ppu with oam := oamFill s.ppu.oamAddr f n s.ppu.oam }).peek (hiLo d (BitVec.ofNat 8 n)) =
        some (f n) := hf n
    rw [afterCopies, ih, busRead_of_peek hp]
    rfl

/-- Copies of empty cartridge space fill OAM with free bytes and change nothing else (R122). -/
theorem afterCopies_open (h : 0x41 ≤ d.toNat) (h' : d.toNat < 0x80) (n : Nat) : afterCopies d n s =
    (s.setPpu { s.ppu with oam := oamFill s.ppu.oamAddr (fun i => Config.draw (s.draws + i)) n s.ppu.oam }).setDraws
      (s.draws + n) := by
  induction n with
  | zero => rfl
  | succ n ih =>
    have hi := (BitVec.ofNat 8 n).isLt
    have hb : ∀ q : State, busRead (hiLo d (BitVec.ofNat 8 n)) q = q.drawByte := fun q =>
      busRead_open q (by rw [toNat_hiLo]; omega) (by rw [toNat_hiLo]; omega) (by rw [toNat_hiLo]; omega)
    rw [afterCopies, ih, hb]
    rfl

/-! ### Pages of the picture unit's registers -/

/-- How far a PPUDATA access moves `v` (R67). -/
def Ppu.dataStep (u : Ppu) : Nat := if u.ctrl.getLsbD 2 then 32 else 1

theorem afterDataRead_eq (c : Cartridge) (u : Ppu) : Ppu.afterDataRead c u =
    { u with readBuffer := Ppu.refillByte c u, v := u.v + BitVec.ofNat 15 u.dataStep } := by
  unfold Ppu.afterDataRead Ppu.bumpV Ppu.dataStep
  cases u.ctrl.getLsbD 2 <;> rfl

/-- All that a read of register `n` changes: a status read clears vblank and `w`, a PPUDATA read refills the buffer and moves
`v` on, and some draw a byte (R62, R67). -/
theorem readPpu_next (n : Nat) (s : State) : ∃ buffer k, (readPpu n s).2 = (s.setPpu { s.ppu with
      readBuffer := buffer
      vblank := s.ppu.vblank && decide (n ≠ 2)
      w := s.ppu.w && decide (n ≠ 2)
      v := s.ppu.v + BitVec.ofNat 15 (if n = 7 then s.ppu.dataStep else 0) }).setDraws k := by
  unfold readPpu
  split
  case h_1 => exact ⟨s.ppu.readBuffer, s.draws + 1, by simp [Ppu.afterStatusRead]; rfl⟩
  case h_2 => exact ⟨s.ppu.readBuffer, s.draws, by simp; rfl⟩
  case h_3 =>
    by_cases hp : isPalette s.ppu.dataAddr = true
    · exact ⟨Ppu.refillByte s.cart s.ppu, s.draws + 1, by simp [hp, afterDataRead_eq]; rfl⟩
    · exact ⟨Ppu.refillByte s.cart s.ppu, s.draws, by simp [hp, afterDataRead_eq]; rfl⟩
  case h_4 h2 _ h7 =>
    have h2 : n ≠ 2 := h2
    have h7 : n ≠ 7 := h7
    exact ⟨s.ppu.readBuffer, s.draws + 1, by simp [h2, h7]; rfl⟩

/-- A read from a page of the picture unit's registers is one of register `n mod 8` (R104). -/
theorem busRead_registerPage (h : 0x20 ≤ d.toNat) (h' : d.toNat < 0x40) {n : Nat} (hn : n < 256) (t : State) :
    busRead (hiLo d (BitVec.ofNat 8 n)) t = readPpu (n % 8) t := by
  have hi : (BitVec.ofNat 8 n).toNat = n := Nat.mod_eq_of_lt hn
  rw [busRead_ppu t (by rw [toNat_hiLo]; omega) (by rw [toNat_hiLo]; omega), ppuRegister, toNat_hiLo, hi]
  congr 1
  omega

/-- The machine after `n` copies from a page of the picture unit's registers, by what they left in OAM, in the read buffer and
in the count of draws: vblank and `w` went at the third of them, and `v` moved on at each eighth. -/
def registersCopied (s : State) (n : Nat) (m : Memory Byte) (buffer : Byte) (k : Nat) : State :=
  (s.setPpu { s.ppu with
    oam := m
    readBuffer := buffer
    vblank := s.ppu.vblank && decide (n < 3)
    w := s.ppu.w && decide (n < 3)
    v := s.ppu.v + BitVec.ofNat 15 (n / 8 * s.ppu.dataStep) }).setDraws k

/-- What the first `n` copies left in OAM for the status reads and the OAMDATA reads among them. -/
structure RegisterBytes (s : State) (n : Nat) (m : Memory Byte) : Prop where
  status : ∀ i < n, i % 8 = 2 →
    (oamAt s.ppu.oamAddr m i).getLsbD 7 = (s.ppu.vblank && decide (i = 2)) ∧
    (oamAt s.ppu.oamAddr m i).getLsbD 6 = s.ppu.sprite0Hit ∧ (oamAt s.ppu.oamAddr m i).getLsbD 5 = s.ppu.spriteOverflow
  oamData : ∀ i < n, i % 8 = 4 → oamAt s.ppu.oamAddr m i = oamAt s.ppu.oamAddr m 0

section RegisterCopy

variable {n k : Nat} {m : Memory Byte} {buffer : Byte}

/-- One more copy stores the byte read and moves the machine on. -/
theorem registersCopied_step : ∃ buffer' k',
    (let r := readPpu (n % 8) (registersCopied s n m buffer k)
     ({ r.2 with ppu := { r.2.ppu with
        oam := Memory.write 0 r.2.ppu.oam (r.2.ppu.oamAddr + BitVec.ofNat 8 n).toNat r.1 } } : State)) =
      registersCopied s (n + 1)
        (oamPut s.ppu.oamAddr m n (readPpu (n % 8) (registersCopied s n m buffer k)).1) buffer' k' := by
  obtain ⟨buffer', k', h⟩ := readPpu_next (n % 8) (registersCopied s n m buffer k)
  have flag : ∀ b : Bool, (b && decide (n < 3) && decide (n % 8 ≠ 2)) = (b && decide (n + 1 < 3)) := fun b => by
    rw [Bool.and_assoc, ← Bool.decide_and]
    congr 2
    simp only [eq_iff_iff]
    omega
  have move : n / 8 * s.ppu.dataStep + (if n % 8 = 7 then s.ppu.dataStep else 0) = (n + 1) / 8 * s.ppu.dataStep := by
    split_ifs with h7
    · rw [show (n + 1) / 8 = n / 8 + 1 by omega, Nat.succ_mul]
    · rw [show (n + 1) / 8 = n / 8 by omega, Nat.add_zero]
  refine ⟨buffer', k', ?_⟩
  dsimp only
  rw [h]
  unfold registersCopied
  rw [← flag, ← flag, ← move, BitVec.ofNat_add, ← BitVec.add_assoc]
  rfl

/-- The byte one more copy stores is a status byte or the first byte copied, where its register says so. -/
theorem registerBytes_step (hn : n < 256) (h : RegisterBytes s n m) : RegisterBytes s (n + 1)
    (oamPut s.ppu.oamAddr m n (readPpu (n % 8) (registersCopied s n m buffer k)).1) where
  status i hi h2 := by
    rcases Nat.lt_succ_iff_lt_or_eq.1 hi with hlt | rfl
    · rw [oamAt_oamPut_of_lt _ _ _ hlt hn]
      exact h.status i hlt h2
    · obtain ⟨h7, h6, h5, -⟩ := statusByte_bits (registersCopied s i m buffer k).ppu (Config.draw k)
      have hv : (registersCopied s i m buffer k).ppu.vblank = (s.ppu.vblank && decide (i = 2)) := by
        have e : i < 3 ↔ i = 2 := by omega
        simp only [← e]
        rfl
      rw [oamAt_oamPut_self, h2]
      exact ⟨h7.trans hv, h6, h5⟩
  oamData i hi h4 := by
    have h0 : oamAt s.ppu.oamAddr (oamPut s.ppu.oamAddr m n (readPpu (n % 8) (registersCopied s n m buffer k)).1) 0 =
        oamAt s.ppu.oamAddr m 0 := oamAt_oamPut_of_lt _ _ _ (by omega) hn
    rw [h0]
    rcases Nat.lt_succ_iff_lt_or_eq.1 hi with hlt | rfl
    · rw [oamAt_oamPut_of_lt _ _ _ hlt hn]
      exact h.oamData i hlt h4
    · rw [oamAt_oamPut_self, h4, oamAt_zero]
      rfl

end RegisterCopy

/-- Copies from a page of the picture unit's registers (R62, R64, R67, R113). -/
theorem afterCopies_registers (h : 0x20 ≤ d.toNat) (h' : d.toNat < 0x40) (s : State) {n : Nat} (hn : n ≤ 256) :
    ∃ m buffer k, afterCopies d n s = registersCopied s n m buffer k ∧ RegisterBytes s n m := by
  induction n with
  | zero =>
    refine ⟨s.ppu.oam, s.ppu.readBuffer, s.draws, ?_, ⟨by omega, by omega⟩⟩
    simp [registersCopied]
    rfl
  | succ n ih =>
    obtain ⟨m, buffer, k, hs, hb⟩ := ih (by omega)
    obtain ⟨buffer', k', hs'⟩ := registersCopied_step (s := s) (n := n) (m := m) (buffer := buffer) (k := k)
    refine ⟨_, buffer', k', ?_, registerBytes_step (buffer := buffer) (k := k) (by omega) hb⟩
    rw [afterCopies, hs, busRead_registerPage h h' (by omega)]
    exact hs'

/-! ### The whole DMA -/

/-- The bytes of a page of RAM or PRG (R102, R121). -/
theorem peek_page (h : d.toNat < 0x20 ∨ 0x80 ≤ d.toNat) (s : State) (i : Byte) : ∃ b, s.peek (hiLo d i) = some b := by
  have hi := i.isLt
  unfold State.peek
  rw [toNat_hiLo]
  split_ifs
  · exact ⟨_, rfl⟩
  · exact ⟨_, rfl⟩
  · omega

/-- A DMA from a page of RAM or PRG puts the page in OAM and changes nothing else. -/
theorem write_dma_plain (h : d.toNat < 0x20 ∨ 0x80 ≤ d.toNat) (s : State) : ∃ oam,
    write 0x4014 d s = .ok { s with
      ppu := { s.ppu with oam := oam }, extraCycles := s.extraCycles + s.params.oamDmaCycles } ∧
    ∀ i : Byte, s.peek (hiLo d i) = some (oamAt s.ppu.oamAddr oam i.toNat) := by
  choose f hf using fun i : Nat => peek_page h s (BitVec.ofNat 8 i)
  have filled : ∀ i : Byte, s.peek (hiLo d i) = some (oamAt s.ppu.oamAddr (oamFill s.ppu.oamAddr f 256 s.ppu.oam) i.toNat) :=
    fun i => by
      have hi := hf i.toNat
      rw [BitVec.ofNat_toNat, BitVec.setWidth_eq] at hi
      rw [hi, oamAt_oamFill _ f _ i.isLt le_rfl]
  refine ⟨_, ?_, filled⟩
  rw [write_dma_afterCopies (by rintro rfl; simp at h) s, afterCopies_plain hf]
  generalize oamFill s.ppu.oamAddr f 256 s.ppu.oam = m
  rfl

/-- A DMA from a page of empty cartridge space puts 256 free bytes in OAM and changes nothing else. -/
theorem write_dma_open (h : 0x41 ≤ d.toNat) (h' : d.toNat < 0x80) (s : State) : ∃ oam,
    write 0x4014 d s = .ok { s with
      ppu := { s.ppu with oam := oam }, draws := s.draws + 256
      extraCycles := s.extraCycles + s.params.oamDmaCycles } ∧
    ∀ i : Byte, oamAt s.ppu.oamAddr oam i.toNat = Config.draw (s.draws + i.toNat) := by
  refine ⟨_, ?_, fun i => oamAt_oamFill _ (fun i => Config.draw (s.draws + i)) s.ppu.oam i.isLt le_rfl⟩
  rw [write_dma_afterCopies (by rintro rfl; simp at h) s, afterCopies_open h h']
  generalize oamFill s.ppu.oamAddr _ 256 s.ppu.oam = m
  rfl

/-- A DMA from a page of the picture unit's registers: 32 status reads and 32 PPUDATA reads among its copies. -/
theorem write_dma_registers (h : 0x20 ≤ d.toNat) (h' : d.toNat < 0x40) (s : State) : ∃ oam buffer draws,
    write 0x4014 d s = .ok { s with
      ppu := { s.ppu with
        oam := oam, readBuffer := buffer, vblank := false, w := false
        v := s.ppu.v + if s.ppu.ctrl.getLsbD 2 then 32 * 32 else 32 }
      draws := draws, extraCycles := s.extraCycles + s.params.oamDmaCycles } ∧
    RegisterBytes s 256 oam := by
  obtain ⟨m, buffer, k, hs, hb⟩ := afterCopies_registers h h' s le_rfl
  have hv : BitVec.ofNat 15 (256 / 8 * s.ppu.dataStep) = if s.ppu.ctrl.getLsbD 2 then 32 * 32 else 32 := by
    unfold Ppu.dataStep
    cases s.ppu.ctrl.getLsbD 2 <;> rfl
  have hf : ∀ b : Bool, (b && decide (256 < 3)) = false := Bool.and_false
  refine ⟨m, buffer, k, ?_, hb⟩
  rw [write_dma_afterCopies (by rintro rfl; simp at h') s, hs, registersCopied, hv, hf, hf]
  rfl

/-- Settles O42: the DMA is `afterCopies`, which by the page is a fill of OAM with plain bytes, with free bytes, or the reads of
the picture unit's registers. -/
theorem oamDmaCopiesThePage : Obligations.OamDmaCopiesThePage := by
  intro s d u cycles place
  have hplace : ∀ (oam : Memory Byte) (i : Byte), place oam i = oamAt u.oamAddr oam i.toNat := oamAt_toNat u.oamAddr
  simp only [hplace]
  refine ⟨fun hd => write_dma_afterCopies hd s, fun hd => hd ▸ write_dma_faults s, fun hd => write_dma_plain hd s,
    fun hd hd' => write_dma_open hd hd' s, fun hd hd' => ?_⟩
  obtain ⟨m, buffer, k, hw, hb⟩ := write_dma_registers hd hd' s
  exact ⟨m, buffer, k, hw, fun i => hb.status i.toNat i.isLt, fun i => hb.oamData i.toNat i.isLt⟩

end Sys2Proof.Machine
end

section
/-! The fetch goes through the bus (O6): bytes read one after the other are an encoding exactly as the opcode map has it. -/

namespace Sys2Proof.Machine

open Claims

variable {s t : State} {i : Instr} {op : Byte} {row : OpRow}

/-! ### The opcode map, the encoder and the undefined bytes -/

theorem operandBytes_cases (m : Mode) : m.operandBytes = 0 ∨ m.operandBytes = 1 ∨ m.operandBytes = 2 := by
  cases m <;> decide

/-- An encoding is an opcode byte of the map and the operand bytes its mode has, of which the row makes the instruction. -/
theorem encode_row (i : Instr) : ∃ row op ops, encode i = op :: ops ∧ lookupOp op = some row ∧
    ops.length = row.mode.operandBytes ∧ row.instr (ops.getD 0 0) (ops.getD 1 0) = i := by
  cases i <;> exact ⟨_, _, _, rfl, rfl, rfl, by simp⟩

theorem undefinedBytes_opcodes_sorted :
    (undefinedBytes.map BitVec.toNat ++ opTable.map (·.opcode.toNat)).insertionSort (· ≤ ·) = List.range 256 := by
  decide +kernel

/-- The bytes R170 lists and the opcodes of the map are the 256 bytes, each once. -/
theorem undefinedBytes_opcodes_perm :
    (undefinedBytes.map BitVec.toNat ++ opTable.map (·.opcode.toNat)).Perm (List.range 256) := by
  rw [← undefinedBytes_opcodes_sorted]
  exact (List.perm_insertionSort _ _).symm

/-- A byte is in no row of the map exactly when R170 lists it. -/
theorem lookupOp_eq_none_iff (op : Byte) : lookupOp op = none ↔ op ∈ undefinedBytes := by
  have hall := undefinedBytes_opcodes_perm.mem_iff.2 (List.mem_range.2 op.isLt)
  have hdisjoint := List.disjoint_of_nodup_append (undefinedBytes_opcodes_perm.nodup_iff.2 List.nodup_range)
  have hu : op.toNat ∈ undefinedBytes.map BitVec.toNat ↔ op ∈ undefinedBytes := by simp [BitVec.toNat_inj]
  have ho : lookupOp op = none ↔ op.toNat ∉ opTable.map (·.opcode.toNat) := by simp [lookupOp, BitVec.toNat_inj]
  rw [ho, ← hu]
  exact ⟨(List.mem_append.1 hall).resolve_right, fun h => hdisjoint h⟩

/-- A row without operand bytes is an instruction whose encoding is its opcode byte. -/
theorem encode_of_noOperands (h : lookupOp op = some row) (hn : row.mode.operandBytes = 0) :
    encode (row.instr 0 0) = [op] := by
  have rows : (opTable.all fun r => r.mode.operandBytes != 0 || encode (r.instr 0 0) == [r.opcode]) = true := by decide
  have hr := List.all_eq_true.1 rows row (List.mem_of_find?_eq_some h)
  have ho : row.opcode = op := by simpa using List.find?_some h
  simpa [hn, ho] using hr

theorem operandBytes_of_encode_singleton (h : lookupOp op = some row) (hi : encode i = [op]) :
    row.mode.operandBytes = 0 := by
  obtain ⟨row', op', ops, he, hr, hn, -⟩ := encode_row i
  obtain ⟨rfl, rfl⟩ := List.cons.inj (he.symm.trans hi)
  obtain rfl := Option.some.inj (hr.symm.trans h)
  exact hn.symm

theorem execBrk_completes (s : State) : ∃ t, execBrk s = .next t := by
  simp only [execBrk]
  split <;> exact ⟨_, rfl⟩

/-- An instruction of one byte has no operand to read or to write through the bus, so it completes. -/
theorem exec_completes_of_encode_singleton (h : encode i = [op]) (s : State) : ∃ t, exec i s = .next t := by
  cases i <;> simp [encode] at h
  case brk => exact execBrk_completes s
  all_goals exact ⟨_, rfl⟩

/-! ### Bytes read one after the other -/

theorem read_cpuStep {a : Addr} {b : Byte} (h : read a s = .ok (b, t)) : CpuStep s t := by
  have k := busRead_cpuStep a s
  rwa [((read_ok_iff _ _ _).1 h).2] at k

theorem readBytes_zero_ok {a : Addr} {l : List Byte} (h : readBytes 0 a s = .ok (l, t)) : l = [] ∧ t = s := by
  simpa [readBytes, eq_comm] using h

theorem readBytes_succ_ok {n : Nat} {a : Addr} {l : List Byte} (h : readBytes (n + 1) a s = .ok (l, t)) :
    ∃ b s1 l1, read a s = .ok (b, s1) ∧ readBytes n (a + 1) s1 = .ok (l1, t) ∧ l = b :: l1 := by
  simp only [readBytes] at h
  split at h
  · cases h
  · rename_i b s1 h1
    split at h
    · cases h
    · rename_i l1 s2 h2
      cases h
      exact ⟨b, s1, l1, h1, h2, rfl⟩

theorem readBytes_cpuStep {n : Nat} {a : Addr} {l : List Byte} (h : readBytes n a s = .ok (l, t)) : CpuStep s t := by
  induction n generalizing a l s with
  | zero => rw [(readBytes_zero_ok h).2]; exact .refl s
  | succ n ih =>
    obtain ⟨b, s1, l1, h1, h2, -⟩ := readBytes_succ_ok h
    exact (read_cpuStep h1).trans (ih h2)

/-- From a mirror of PPUSTATUS on, the first read clears vblank and no other sets it. -/
theorem readBytes_status_vblank {n : Nat} {a : Addr} {l : List Byte} (ha : inPpuWindow a) (hn : a.toNat % 8 = 2)
    (h : readBytes (n + 1) a s = .ok (l, t)) : t.ppu.vblank = false := by
  obtain ⟨b, s1, l1, h1, h2, -⟩ := readBytes_succ_ok h
  obtain ⟨-, rfl⟩ := Prod.mk.inj (Except.ok.inj ((read_ppuRegister ha hn).symm.trans h1))
  rw [Bool.eq_false_iff]
  exact fun ht => Bool.false_ne_true ((readBytes_cpuStep h2).ppu.vblank ht)

/-! ### The fetch is those reads -/

theorem fetch_of_read_error {r : Fault} (h : read s.pc s = .error r) : fetch s = .error r := by simp only [fetch, h]

theorem fetch_undefined {s1 : State} (h : read s.pc s = .ok (op, s1)) (hop : op ∈ undefinedBytes) :
    fetch s = .error (.decodeError s.pc) := by
  simp only [fetch, h, (lookupOp_eq_none_iff op).2 hop]

/-- Reading a row's opcode byte and its operand bytes is fetching what the row makes of them. -/
theorem fetch_of_readBytes {ops : List Byte} (hr : lookupOp op = some row)
    (h : readBytes (row.mode.operandBytes + 1) s.pc s = .ok (op :: ops, t)) :
    fetch s = .ok (row.instr (ops.getD 0 0) (ops.getD 1 0), t) := by
  obtain ⟨_, s1, _, h1, h, he⟩ := readBytes_succ_ok h
  obtain ⟨rfl, rfl⟩ := List.cons.inj he
  rcases operandBytes_cases row.mode with hn | hn | hn <;> rw [hn] at h
  · obtain ⟨rfl, rfl⟩ := readBytes_zero_ok h
    simp only [fetch, h1, hr, hn, List.getD_nil]
  · obtain ⟨b1, s2, _, h2, h0, rfl⟩ := readBytes_succ_ok h
    obtain ⟨rfl, rfl⟩ := readBytes_zero_ok h0
    simp only [fetch, h1, hr, hn, h2, List.getD_cons_zero, List.getD_cons_succ, List.getD_nil]
  · obtain ⟨b1, s2, _, h2, h', rfl⟩ := readBytes_succ_ok h
    obtain ⟨b2, s3, _, h3, h0, rfl⟩ := readBytes_succ_ok h'
    obtain ⟨rfl, rfl⟩ := readBytes_zero_ok h0
    have hpc : s.pc + 1 + 1 = s.pc + 2 := by rw [BitVec.add_assoc]; rfl
    rw [hpc] at h3
    simp only [fetch, h1, hr, hn, h2, h3, List.getD_cons_zero, List.getD_cons_succ]

/-- A row with operand bytes faults when the byte after its opcode is unmapped. -/
theorem fetch_of_operand_error {s1 : State} {r : Fault} (h : read s.pc s = .ok (op, s1)) (hr : lookupOp op = some row)
    (hn : row.mode.operandBytes ≠ 0) (h1 : read (s.pc + 1) s1 = .error r) : fetch s = .error r := by
  rcases operandBytes_cases row.mode with h0 | h0 | h0
  · exact absurd h0 hn
  · simp only [fetch, h, hr, h0, h1]
  · simp only [fetch, h, hr, h0, h1]

/-- Reading an instruction's encoding is fetching it. -/
theorem fetch_of_readBytes_encode (h : readBytes (encode i).length s.pc s = .ok (encode i, t)) : fetch s = .ok (i, t) := by
  obtain ⟨row, op, ops, he, hr, hn, rfl⟩ := encode_row i
  rw [he, List.length_cons, hn] at h
  exact fetch_of_readBytes hr h

/-! ### The step after its fetch -/

theorem event_of_runsInstruction (h : runsInstruction s) : event s = .step := by
  obtain ⟨-, hn, hi⟩ := h
  rcases hi with hi | hi <;> simp [event, hn, hi]

theorem step_of_fetch (h : runsInstruction s) (hf : fetch s = .ok (i, t)) : step s = mapNext afterCpu (exec i t) := by
  simp only [step, h.1, event_of_runsInstruction h, hf]
  cases exec i t <;> rfl

theorem step_of_fetch_error {r : Fault} (h : runsInstruction s) (hf : fetch s = .error r) : step s = .fault r := by
  simp only [step, h.1, event_of_runsInstruction h, hf]

theorem step_of_read_error {r : Fault} (h : runsInstruction s) (hr : read s.pc s = .error r) : step s = .fault r :=
  step_of_fetch_error h (fetch_of_read_error hr)

/-! ### Regions that give a free byte, and 0x4018 to 0x401F -/

/-- A read of the sound registers or of empty cartridge space is a free byte (20_memory.md rules R112, R114, R122). -/
theorem read_open {a : Addr} (s : State) (h : 0x4000 ≤ a.toNat) (h' : a.toNat < 0x8000) (hc : a.toNat ≠ 0x4016)
    (hu : unmapped a = false) : read a s = .ok (Config.draw s.draws, { s with draws := s.draws + 1 }) := by
  rw [read_of_mapped s hu, busRead_open s h h' hc]
  rfl

theorem read_unmapped {a : Addr} (s : State) (h : unmapped a = true) : read a s = .error (.unmappedAddress a) :=
  (read_error_iff s a _).2 ⟨h, rfl⟩

/-- The three ways of a step whose opcode is the free byte at 0x4017: it is undefined, it is an instruction, or its operand
would be read at 0x4018. -/
theorem step_at_0x4017 (h : runsInstruction s) (hpc : s.pc = 0x4017) :
    (Config.draw s.draws ∈ undefinedBytes ∧ step s = .fault (.decodeError 0x4017)) ∨
    (∃ i t, encode i = [Config.draw s.draws] ∧ step s = .next t) ∨
    (Config.draw s.draws ∉ undefinedBytes ∧ (∀ i, encode i ≠ [Config.draw s.draws]) ∧
      step s = .fault (.unmappedAddress 0x4018)) := by
  have hread : read s.pc s = .ok (Config.draw s.draws, { s with draws := s.draws + 1 }) := by
    have h4017 := read_open (a := 0x4017) s (by decide) (by decide) (by decide) rfl
    rwa [← hpc] at h4017
  generalize Config.draw s.draws = op at hread
  cases hr : lookupOp op with
  | none =>
    have hop := (lookupOp_eq_none_iff op).1 hr
    exact .inl ⟨hop, hpc ▸ step_of_fetch_error h (fetch_undefined hread hop)⟩
  | some row =>
    have hop : op ∉ undefinedBytes := by
      rw [← lookupOp_eq_none_iff, hr]
      exact Option.some_ne_none row
    refine .inr ?_
    by_cases hn : row.mode.operandBytes = 0
    · have he := encode_of_noOperands hr hn
      have hf : fetch s = .ok (row.instr 0 0, { s with draws := s.draws + 1 }) := by simp only [fetch, hread, hr, hn]
      obtain ⟨t, ht⟩ := exec_completes_of_encode_singleton he { s with draws := s.draws + 1 }
      exact .inl ⟨_, afterCpu t, he, by rw [step_of_fetch h hf, ht]; rfl⟩
    · refine .inr ⟨hop, fun i hi => hn (operandBytes_of_encode_singleton hr hi), step_of_fetch_error h ?_⟩
      refine fetch_of_operand_error hread hr hn ?_
      rw [hpc]
      exact read_unmapped _ rfl

/-- Settles O6: the fetch is the reads of the bytes, so a read's fault is the step's, its free byte the opcode and its effects
stay. -/
theorem fetchGoesThroughTheBus : Obligations.FetchGoesThroughTheBus := by
  refine ⟨fun s t i h hb => ?_, fun s r h hr => step_of_read_error h hr, fun s hu => read_unmapped s hu,
    fun s h hpc => step_at_0x4017 h hpc, ?_, fun s h h' => ?_⟩
  · rw [step_of_fetch h (fetch_of_readBytes_encode hb)]
    cases exec i t <;> rfl
  · intro s t n bytes ha hn h
    exact readBytes_status_vblank ha hn h
  · exact read_open s (by omega) h' (by omega) (unmapped_false_of_gt (by omega))

end Sys2Proof.Machine
end

section
/-! The CPU's memory map: RAM and its mirrors (O39), PRG and the images that are accepted (O40), and the rest of it (O41). -/

namespace Sys2Proof.Machine

open Claims

/-! ### RAM -/

theorem read_ram {b : Addr} (s : State) (h : b.toNat < 0x2000) : read b s = .ok (s.ramAt b, s) := by
  rw [read_of_mapped s (unmapped_false_of_lt (by omega)), busRead_ram s h]

/-- After a write to RAM its byte reads as written at each of its mirrors. -/
theorem ramAt_ramPut_mirror {a b : Addr} (s : State) (v : Byte) (h : ramIndex a = ramIndex b) :
    (s.ramPut a v).ramAt b = v := by
  rw [State.ramAt, State.ramPut, State.setRam_ram, h, Memory.read_write_self]

/-- After a write to RAM every other byte of it reads as before. -/
theorem ramAt_ramPut_other {a b : Addr} (s : State) (v : Byte) (h : ramIndex a ≠ ramIndex b) :
    (s.ramPut a v).ramAt b = s.ramAt b := by
  rw [State.ramAt, State.ramPut, State.setRam_ram, Memory.read_write_other _ _ _ _ _ h.symm, State.ramAt]

/-- Settles O39: a RAM access goes to the byte at `ramIndex`, which the mirrors share. -/
theorem ramMirrors : Obligations.RamMirrors := by
  intro s a b v ha hb
  refine ⟨read_ram s hb, write_ram s v ha, s.ramPut a v, write_ram s v ha, fun h => ?_, fun h => ?_⟩
  · rw [read_ram _ hb, ramAt_ramPut_mirror s v h]
  · exact ⟨s.ramAt b, read_ram s hb, by rw [read_ram _ hb, ramAt_ramPut_other s v h]⟩

/-! ### Which images are accepted, and the first check that rejects one -/

section Ingest

variable {img : CartridgeImage}

theorem ingest_of_check {e : ConstructionError} (h : img.check = some e) : ingest img = .error e := by
  simp only [ingest, h]

theorem check_mapper (hm : img.mapper ≠ 0) : img.check = some (.unsupportedMapper img.mapper) := if_pos hm

theorem check_prg (hm : img.mapper = 0) (hp : ¬(img.prg.length = 16384 ∨ img.prg.length = 32768)) :
    img.check = some (.badPrgSize img.prg.length) := by
  unfold CartridgeImage.check prgBankSize
  rw [if_neg (by omega), if_pos (by omega)]

theorem check_chr (hm : img.mapper = 0) (hp : img.prg.length = 16384 ∨ img.prg.length = 32768)
    (hc : img.chr.length ≠ 8192) : img.check = some (.badChrSize img.chr.length) := by
  unfold CartridgeImage.check prgBankSize chrSize
  rw [if_neg (by omega), if_neg (by omega), if_pos hc]

theorem check_layout (hm : img.mapper = 0) (hp : img.prg.length = 16384 ∨ img.prg.length = 32768)
    (hc : img.chr.length = 8192) (hl : img.layout = .other) : img.check = some .unsupportedMirroring := by
  unfold CartridgeImage.check prgBankSize chrSize
  rw [if_neg (by omega), if_neg (by omega), if_neg (by omega), if_pos hl]

theorem layout_ne_other_iff (l : Layout) : l ≠ .other ↔ l = .horizontal ∨ l = .vertical := by cases l <;> decide

theorem ingest_accepts_iff : (∃ c, ingest img = .ok c) ↔ img.mapper = 0 ∧
    (img.prg.length = 16384 ∨ img.prg.length = 32768) ∧ img.chr.length = 8192 ∧
    (img.layout = .horizontal ∨ img.layout = .vertical) := by
  rw [← layout_ne_other_iff, ← check_none_iff]
  exact ⟨fun ⟨c, hc⟩ => ((ingest_ok_iff img c).1 hc).1, fun h => ⟨_, (ingest_ok_iff img _).2 ⟨h, rfl⟩⟩⟩

/-! ### What an accepted cartridge holds -/

/-- A memory made from a whole array reads as the array. -/
theorem some_read_ofList {α : Type} [DecidableEq α] (d : α) {l : List α} {k : Nat} (h : k < l.length) :
    some (Memory.read d (Memory.ofList d l.length l) k) = l[k]? := by
  rw [Memory.read_ofList, List.take_length, List.getElem?_eq_getElem h, Option.getD_some]

theorem size_banksOf {n : Nat} (h : n = 16384 ∨ n = 32768) : (banksOf n).size = n := by
  rcases h with rfl | rfl <;> rfl

variable {c : Cartridge} (h : ingest img = .ok c)

include h

theorem ingest_prg {k : Nat} (hk : k < img.prg.length) : some (Memory.read 0 c.prg k) = img.prg[k]? := by
  rw [((ingest_ok_iff img c).1 h).2]
  exact some_read_ofList 0 hk

theorem ingest_chr {k : Nat} (hk : k < 8192) : some (Memory.read 0 c.chr k) = img.chr[k]? := by
  obtain ⟨hcheck, rfl⟩ := (ingest_ok_iff img c).1 h
  obtain ⟨-, -, hlen, -⟩ := (check_none_iff img).1 hcheck
  exact some_read_ofList 0 (hlen ▸ hk)

theorem ingest_mirroring : c.mirroring = mirroringOf img.layout := by rw [((ingest_ok_iff img c).1 h).2]

/-- The banks of an accepted cartridge are as many as its image's PRG fills. -/
theorem ingest_banks : c.banks.size = img.prg.length := by
  obtain ⟨hcheck, rfl⟩ := (ingest_ok_iff img c).1 h
  obtain ⟨-, hlen, -⟩ := (check_none_iff img).1 hcheck
  exact size_banksOf hlen

end Ingest

theorem read_prg {a : Addr} (s : State) (h : 0x8000 ≤ a.toNat) : read a s = .ok (s.prgAt a, s) := by
  rw [read_of_mapped s (unmapped_false_of_gt (by omega)), busRead_prg s h]

/-- With an accepted image's cartridge, PRG reads as the image, mirrored by its length. -/
theorem prgAt_of_ingest {img : CartridgeImage} {s : State} (h : ingest img = .ok s.cart) (a : Addr) :
    img.prg[(a.toNat - 0x8000) % img.prg.length]? = some (s.prgAt a) := by
  have hsize := ingest_banks h
  have hlt := prgIndex_lt s.cart.banks a
  rw [hsize] at hlt
  rw [State.prgAt, ingest_prg h hlt, prgIndex, hsize]

/-- Settles O40: the checks by `check`, what is accepted by `ingest_ok_iff`, and a PRG read by the size of its banks. -/
theorem prgReadsTheImage : Obligations.PrgReadsTheImage := by
  refine ⟨fun img => ⟨ingest_accepts_iff, fun hm => ingest_of_check (check_mapper hm),
    fun hm hp => ingest_of_check (check_prg hm hp), fun hm hp hc => ingest_of_check (check_chr hm hp hc),
    fun hm hp hc hl => ingest_of_check (check_layout hm hp hc ?_), fun c h => ?_⟩, fun img s a h ha => ?_⟩
  · rwa [← layout_ne_other_iff, not_not] at hl
  · exact ⟨fun k hk => ingest_prg h hk, fun k hk => ingest_chr h hk, fun hl => by rw [ingest_mirroring h, hl]; rfl,
      fun hl => by rw [ingest_mirroring h, hl]; rfl⟩
  · exact ⟨s.prgAt a, prgAt_of_ingest h a, read_prg s ha⟩

/-! ### Open bus, ignored writes and the unmapped addresses -/

/-- A read of a write-only PPU register is a free byte (10_state.md rule R50). -/
theorem readPpu_writeOnly {n : Nat} (h : n = 0 ∨ n = 1 ∨ n = 3 ∨ n = 5 ∨ n = 6) (s : State) :
    readPpu n s = (Config.draw s.draws, { s with draws := s.draws + 1 }) := by
  rcases h with rfl | rfl | rfl | rfl | rfl <;> rfl

/-- Settles O41: each region's rule for a read and a write, and `write_dma_faults` for the DMA. -/
theorem busOutsideMemory : Obligations.BusOutsideMemory := by
  intro s a v
  refine ⟨fun ha hn => ?_, fun h => ?_, fun h => ?_, fun h => ?_, write_dma_faults s⟩
  · rw [read_ppuRegister ha rfl, readPpu_writeOnly hn]
  · have hu : unmapped a = false := by rw [Bool.eq_false_iff, ne_eq, unmapped_iff]; omega
    exact read_open s (by omega) (by omega) (by omega) hu
  · have hu : unmapped a = false := by rw [Bool.eq_false_iff, ne_eq, unmapped_iff]; omega
    exact write_ignored s v (by omega) hu (by omega) (by omega)
  · have hu := (unmapped_iff a).2 h
    refine ⟨read_unmapped s hu, write_unmapped s v hu, fun hs hpc => step_of_read_error hs ?_⟩
    rw [hpc]
    exact read_unmapped s hu

end Sys2Proof.Machine
end

section
/-! The PPU address space (O47): the index of a nametable address and of a palette address, their mirrors, and what a write
leaves to be read. -/

namespace Sys2Proof.Machine

variable (c : Cartridge) (u : Ppu) (open7 v : Byte) {a : PpuAddr}

/-! ### Nametables -/

/-- With vertical mirroring the left and the right nametable are the two places of VRAM (20_memory.md rule R134). -/
theorem ntIndex_vertical (a : PpuAddr) : ntIndex .vertical a = a.toNat / 0x400 % 2 * 0x400 + a.toNat % 0x400 := by
  simp only [ntIndex]
  omega

/-- With horizontal mirroring the upper and the lower nametable are the two places of VRAM (20_memory.md rule R134). -/
theorem ntIndex_horizontal (a : PpuAddr) : ntIndex .horizontal a = a.toNat / 0x800 % 2 * 0x400 + a.toNat % 0x400 := by
  simp only [ntIndex]
  omega

/-- A nametable address and the one 0x1000 on are one place (20_memory.md rule R136). -/
theorem ntIndex_add_0x1000 (m : Mirroring) (a : PpuAddr) : ntIndex m (a + 0x1000) = ntIndex m a := by
  have h : (a + 0x1000).toNat % 0x1000 = a.toNat % 0x1000 := by simp [BitVec.toNat_add]
  simp only [ntIndex, h]

theorem ppuRead_ppuWrite_nametable (h : 0x2000 ≤ a.toNat) (h' : a.toNat < 0x3F00) :
    ppuRead c (ppuWrite c u a v) open7 a = v := by
  rw [ppuWrite_nametable c u v h h', ppuRead_nametable c _ open7 h h', Memory.read_write_self]

theorem ppuRead_nametable_mirror (h : 0x2000 ≤ a.toNat) (h' : a.toNat < 0x2F00) :
    ppuRead c u open7 (a + 0x1000) = ppuRead c u open7 a := by
  have ha : (a + 0x1000).toNat = a.toNat + 0x1000 := by simp [BitVec.toNat_add]; omega
  rw [ppuRead_nametable c u open7 (by omega) (by omega), ppuRead_nametable c u open7 h (by omega), ntIndex_add_0x1000]

/-! ### The palette -/

/-- A palette entry depends on the address mod 32 (20_memory.md rule R135). -/
theorem palIndex_congr {a b : PpuAddr} (h : a.toNat % 0x20 = b.toNat % 0x20) : palIndex a = palIndex b := by
  simp only [palIndex, h]

/-- The backdrop entry of a sprite palette is that of the background palette (20_memory.md rule R135). -/
theorem palIndex_add_0x10 (h : a.toNat % 0x20 < 0x10) (h4 : a.toNat % 4 = 0) : palIndex (a + 0x10) = palIndex a := by
  have ha : (a + 0x10).toNat % 0x20 = a.toNat % 0x20 + 0x10 := by simp [BitVec.toNat_add]; omega
  simp only [palIndex, ha]
  rw [if_pos (by omega), if_neg (by omega)]
  omega

/-- The six bits a palette entry keeps of a byte. -/
theorem setWidth_six_eight (v : Byte) : (v.setWidth 6).setWidth 8 = v &&& 0x3F#8 := by
  apply BitVec.eq_of_getLsbD_eq
  intro i hi
  simp only [BitVec.getLsbD_setWidth, BitVec.getLsbD_and]
  interval_cases i <;> simp

theorem setWidth_and_0x3F (v : Byte) : (v &&& 0x3F#8).setWidth 6 = v.setWidth 6 := by
  apply BitVec.eq_of_getLsbD_eq
  intro i hi
  simp only [BitVec.getLsbD_setWidth, BitVec.getLsbD_and]
  interval_cases i <;> simp

theorem ppuRead_ppuWrite_palette (h : 0x3F00 ≤ a.toNat) :
    ppuRead c (ppuWrite c u a v) open7 a = (v &&& 0x3F) ||| (open7 &&& 0xC0) := by
  rw [ppuWrite_palette c u v h, ppuRead_palette c _ open7 h, Memory.read_write_self, setWidth_six_eight]
  rfl

/-- Palette addresses of one entry read alike. -/
theorem ppuRead_palette_congr {a b : PpuAddr} (ha : 0x3F00 ≤ a.toNat) (hb : 0x3F00 ≤ b.toNat)
    (h : palIndex b = palIndex a) : ppuRead c u open7 b = ppuRead c u open7 a := by
  rw [ppuRead_palette c u open7 ha, ppuRead_palette c u open7 hb, h]

/-- Settles O47: the region's rules with the indices on numbers, and equal indices for the mirrors. -/
theorem ppuAddressSpace : Obligations.PpuAddressSpace := by
  intro c u a open7 v nt i pal
  have hnt : ntIndex c.mirroring a = nt := by
    cases hm : c.mirroring <;> simp only [nt, hm]
    · exact ntIndex_horizontal a
    · exact ntIndex_vertical a
  have hpal : palIndex a = pal := rfl
  clear_value nt pal
  subst hnt hpal
  refine ⟨fun h => ⟨ppuRead_chr c u open7 h, ppuWrite_chr c u v h⟩, fun h h' => ?_, fun h => ?_, fun h h' => ?_⟩
  · exact ⟨ppuRead_nametable c u open7 h h', ppuWrite_nametable c u v h h', ppuRead_ppuWrite_nametable c u open7 v h h'⟩
  · refine ⟨ppuRead_palette c u open7 h, ?_, ppuRead_ppuWrite_palette c u open7 v h, fun hl => ?_, fun hl h4 => ?_⟩
    · rw [ppuWrite_palette c u v h, ← setWidth_and_0x3F]
      rfl
    · have ha : (a + 0x20).toNat = a.toNat + 0x20 := by simp [BitVec.toNat_add]; omega
      exact ppuRead_palette_congr c u open7 h (by omega) (palIndex_congr (by omega))
    · have ha : (a + 0x10).toNat = a.toNat + 0x10 := by simp [BitVec.toNat_add]; omega
      exact ppuRead_palette_congr c u open7 h (by omega) (palIndex_add_0x10 hl h4)
  · exact ppuRead_nametable_mirror c u open7 h h'

end Sys2Proof.Machine
end

section
/-! The controller (O48): the strobe, the read and the host's move, and what reads after a strobe give. -/

namespace Sys2Proof.Machine

open Claims

/-! ### A read's byte -/

/-- The byte of a controller read is the bit under seven free bits (20_memory.md rule R111). -/
theorem controllerByte_bits (b : Bool) (o : Byte) :
    ((o &&& 0xFE#8) ||| bitAt b 0).getLsbD 0 = b ∧ ((o &&& 0xFE#8) ||| bitAt b 0) &&& 0xFE#8 = o &&& 0xFE#8 := by
  constructor
  · cases b <;> simp [bitAt]
  · apply BitVec.eq_of_getLsbD_eq
    intro i hi
    interval_cases i <;> cases b <;> simp [bitAt]

theorem afterStrobe_eq (c : Controller) (d : Byte) : c.afterStrobe d =
    { c with strobe := d.getLsbD 0, shift := if d.getLsbD 0 then c.buttons else c.shift } := by
  unfold Controller.afterStrobe
  cases d.getLsbD 0 <;> rfl

/-! ### The reads after a strobe -/

/-- While the strobe is 1 reads do not shift. -/
theorem afterReads_of_strobe {c : Controller} (h : c.strobe = true) (k : Nat) : afterReads k c = c := by
  induction k with
  | zero => rfl
  | succ k ih => rw [afterReads, Controller.afterRead, if_pos h, ih]

/-- A bit of a shift with a 1 coming in. -/
theorem getLsbD_shiftOnesIn (b : Byte) {j : Nat} (hj : j < 8) :
    ((b >>> 1) ||| 0x80#8).getLsbD j = if j + 1 < 8 then b.getLsbD (j + 1) else true := by
  interval_cases j <;> simp

theorem afterRead_of_not_strobe {c : Controller} (h : c.strobe = false) :
    c.afterRead = { c with shift := (c.shift >>> 1) ||| 0x80#8 } := by
  rw [Controller.afterRead, if_neg (by simp [h])]

/-- With the strobe 0, `k` reads move the shift register `k` places, 1s coming in. -/
theorem afterReads_of_not_strobe {c : Controller} (h : c.strobe = false) (k : Nat) :
    ∃ r, afterReads k c = { c with shift := r } ∧
      ∀ j < 8, r.getLsbD j = if j + k < 8 then c.shift.getLsbD (j + k) else true := by
  induction k generalizing c with
  | zero => exact ⟨c.shift, rfl, fun j hj => (if_pos hj).symm⟩
  | succ k ih =>
    obtain ⟨r, hr, hbits⟩ := ih (c := { c with shift := (c.shift >>> 1) ||| 0x80#8 }) h
    refine ⟨r, by rw [afterReads, afterRead_of_not_strobe h, hr], fun j hj => ?_⟩
    rw [hbits j hj]
    by_cases hjk : j + k < 8
    · rw [if_pos hjk, getLsbD_shiftOnesIn _ hjk, Nat.add_assoc]
    · rw [if_neg hjk, if_neg (by omega)]

/-- After a strobe of 1 and 0 the reads give the eight buttons in order, then 1s (60_exceptions.md rules R400, R402, R403). -/
theorem bit_afterReads_strobe_pair (c : Controller) (k : Nat) :
    (afterReads k ((c.afterStrobe 1).afterStrobe 0)).bit = if k < 8 then c.buttons.getLsbD k else true := by
  have hc : (c.afterStrobe 1).afterStrobe 0 = { c with strobe := false, shift := c.buttons } := by
    simp only [afterStrobe_eq]
    rfl
  obtain ⟨r, hr, hbits⟩ := afterReads_of_not_strobe (c := { c with strobe := false, shift := c.buttons }) rfl k
  rw [hc, hr]
  have h0 := hbits 0 (by decide)
  rwa [Nat.zero_add] at h0

/-- While the strobe is 1 every read gives button A (60_exceptions.md rule R401). -/
theorem bit_afterReads_strobe (c : Controller) (k : Nat) :
    (afterReads k (c.afterStrobe 1)).bit = c.buttons.getLsbD 0 := by
  rw [afterReads_of_strobe (by rw [afterStrobe_eq]; rfl), afterStrobe_eq]
  rfl

/-- Settles O48: the write, the read and the host's move are the controller's own operations, and the reads after a strobe by
induction on their number. -/
theorem controllerProtocol : Obligations.ControllerProtocol := by
  refine ⟨fun s d => ?_, fun s => ?_, fun s b => rfl,
    fun c k => ⟨bit_afterReads_strobe_pair c k, bit_afterReads_strobe c k⟩⟩
  · rw [write_controller s d rfl, afterStrobe_eq]
    rfl
  · obtain ⟨hbit, hopen⟩ := controllerByte_bits s.ctl.bit (Config.draw s.draws)
    refine ⟨_, ?_, hbit, hopen⟩
    rw [read_of_mapped s rfl, busRead_controller s rfl]
    rfl

end Sys2Proof.Machine
end

section
/-! Every reachable state meets the invariant (O60): power-on gives it, the host's moves and a fault keep it, and so does
a step (O58). -/

namespace Sys2Proof.Machine

variable {s : State}

theorem bytesWf_ofList (n : Nat) (l : List Byte) : bytesWf n (Memory.ofList 0 n l) = true := by
  rw [bytesWf, Memory.ofList_wf, Memory.ofList_below, Bool.and_self]

/-- The cartridge of an accepted image has the form the invariant asks. -/
theorem ingest_inv {img : CartridgeImage} {c : Cartridge} (h : ingest img = .ok c) : c.Inv := by
  obtain ⟨hcheck, rfl⟩ := (ingest_ok_iff img c).1 h
  obtain ⟨-, hprg, hchr, -⟩ := (check_none_iff img).1 hcheck
  constructor
  · rw [size_banksOf hprg]
    exact bytesWf_ofList _ _
  · rw [hchr]
    exact bytesWf_ofList _ _

theorem ppuPowerOn_inv (ini : InitParams) : (Ppu.powerOn ini).Inv where
  vram := bytesWf_ofList _ _
  palette := by rw [paletteWf, Ppu.powerOn, Memory.ofList_wf, Memory.ofList_below, Bool.and_self]
  oam := bytesWf_ofList _ _
  frame := rfl
  presented _ h := nomatch h
  scanline := Nat.zero_lt_succ _
  dot := Nat.zero_lt_succ _
  sprite0Hit := rfl
  spriteOverflow := rfl

theorem powerOn_inv {cart : Cartridge} (h : cart.Inv) (params : Params) (ini : InitParams) :
    (powerOn cart params ini).Inv where
  ram := bytesWf_ofList _ _
  ppu := ppuPowerOn_inv ini
  cart := h
  frames _ h := nomatch h
  latch h := nomatch h
  nmiTaken := rfl
  frameTaken := rfl

/-- The host's buttons keep the latch: while the strobe is 1 the shift register takes them too. -/
theorem setButtons_inv (h : s.Inv) (b : Byte) : (setButtons b s).Inv :=
  { h with latch := fun hs => if_pos hs }

theorem driveIrqLine_inv (h : s.Inv) (level : Bool) : (driveIrqLine level s).Inv := { h with }

theorem hostReset_inv (h : s.Inv) : (hostReset s).Inv := { h with }

theorem faultedBy_inv (h : s.Inv) (r : Fault) : (s.faultedBy r).Inv := { h with }

theorem driverStep_inv (h : s.Inv) : (driverStep s).Inv := by
  unfold driverStep
  split
  · exact h
  · exact h
  · split
    · rename_i hs
      exact stepKeepsTheInvariant s _ h hs
    · exact faultedBy_inv h _
    · exact h

theorem reachable_inv (h : Reachable s) : s.Inv := by
  induction h with
  | powerOn img cart params ini hc => exact powerOn_inv (ingest_inv hc) params ini
  | step s t _ hs ih => exact stepKeepsTheInvariant s t ih hs
  | fault s r _ _ _ ih => exact faultedBy_inv ih r
  | setButtons b s _ ih => exact setButtons_inv ih b
  | driveIrqLine level s _ ih => exact driveIrqLine_inv ih level
  | hostReset s _ ih => exact hostReset_inv ih

/-- Settles O60: by induction along a run, each move by its own lemma. -/
theorem reachableStatesMeetTheInvariant : Obligations.ReachableStatesMeetTheInvariant :=
  ⟨fun _ _ params ini hc => powerOn_inv (ingest_inv hc) params ini,
    fun _ h => ⟨setButtons_inv h, driveIrqLine_inv h, hostReset_inv h, driverStep_inv h⟩, fun _ => reachable_inv⟩

end Sys2Proof.Machine
end

section
/-! Decoding and encoding (O1 to O4): `decode` answers exactly for an opcode byte of the map followed by the operand bytes its
mode has, and the encoding of what a row makes of its operand bytes is those bytes. -/

namespace Sys2Proof.Machine

open Claims

variable {op : Byte} {row : OpRow} {i : Instr} {bytes ops rest : List Byte}

/-! ### The decoder -/

theorem decode_of_lookupOp_none (h : lookupOp op = none) : decode (op :: rest) = .error (.undefinedOpcode op) := by
  simp only [decode, h]

/-- After a row's opcode byte, decoding takes the operand bytes the row's mode has, if there are as many. -/
theorem decode_of_lookupOp_some (h : lookupOp op = some row) : decode (op :: rest) =
    if rest.length < row.mode.operandBytes then .error (.truncated op)
    else
      let ops := rest.take row.mode.operandBytes
      .ok (row.instr (ops.getD 0 0) (ops.getD 1 0), rest.drop row.mode.operandBytes) := by
  rcases operandBytes_cases row.mode with hn | hn | hn
  · simp [decode, h, hn]
  · rcases rest with _ | ⟨b1, rest⟩ <;> simp [decode, h, hn]
  · rcases rest with _ | ⟨b1, _ | ⟨b2, rest⟩⟩ <;> simp [decode, h, hn]

theorem decode_ok_iff : decode bytes = .ok (i, rest) ↔ ∃ op row ops, bytes = op :: ops ++ rest ∧ lookupOp op = some row ∧
    ops.length = row.mode.operandBytes ∧ row.instr (ops.getD 0 0) (ops.getD 1 0) = i := by
  constructor
  · intro h
    rcases bytes with _ | ⟨op, tail⟩
    · cases h
    cases hr : lookupOp op with
    | none => rw [decode_of_lookupOp_none hr] at h; cases h
    | some row =>
      rw [decode_of_lookupOp_some hr] at h
      split at h
      · cases h
      · rename_i hn
        obtain ⟨rfl, rfl⟩ := Prod.mk.inj (Except.ok.inj h)
        exact ⟨op, row, _, by simp, hr, List.length_take_of_le (Nat.le_of_not_lt hn), rfl⟩
  · rintro ⟨op, row, ops, rfl, hr, hn, rfl⟩
    rw [List.cons_append, decode_of_lookupOp_some hr]
    simp [← hn]

/-- The decoder rejects an opcode byte by name exactly when it is one of the undefined ones. -/
theorem decode_undefinedOpcode_iff : decode (op :: rest) = .error (.undefinedOpcode op) ↔ op ∈ undefinedBytes := by
  rw [← lookupOp_eq_none_iff]
  refine ⟨fun h => ?_, decode_of_lookupOp_none⟩
  cases hr : lookupOp op with
  | none => rfl
  | some row =>
    rw [decode_of_lookupOp_some hr] at h
    split at h <;> cases h

/-! ### The encoder -/

/-- The operand bytes the encoder writes for what a row of this mode makes of two bytes, a word's low byte first (R161). -/
def operandsOf (m : Mode) (b1 b2 : Byte) : List Byte :=
  match m.operandBytes with
  | 0 => []
  | 1 => [b1]
  | _ => [loByte (hiLo b2 b1), hiByte (hiLo b2 b1)]

/-- They are the bytes themselves. -/
theorem operandsOf_getD {m : Mode} (h : ops.length = m.operandBytes) : operandsOf m (ops.getD 0 0) (ops.getD 1 0) = ops := by
  rcases operandBytes_cases m with hn | hn | hn
  · obtain rfl := List.length_eq_zero_iff.1 (h.trans hn)
    simp [operandsOf, hn]
  · obtain ⟨b1, rfl⟩ := List.length_eq_one_iff.1 (h.trans hn)
    simp [operandsOf, hn]
  · obtain ⟨b1, b2, rfl⟩ := List.length_eq_two.1 (h.trans hn)
    simp [operandsOf, hn]

/-- In every row of the map, the encoder writes the opcode byte of the row and the operand bytes of its mode. -/
theorem encode_of_mem_opTable (b1 b2 : Byte) :
    ∀ row ∈ opTable, encode (row.instr b1 b2) = row.opcode :: operandsOf row.mode b1 b2 := by
  simp only [opTable, List.forall_mem_append, and_assoc]
  refine ⟨?_, ?_, ?_, ?_, ?_, ?_, ?_, ?_, ?_, ?_, ?_, ?_, ?_, ?_, ?_, ?_⟩ <;> exact List.map_inj_left.1 rfl

/-- What a row makes of the operand bytes its mode has is encoded as the opcode byte and those bytes. -/
theorem encode_instr (h : lookupOp op = some row) (hn : ops.length = row.mode.operandBytes) :
    encode (row.instr (ops.getD 0 0) (ops.getD 1 0)) = op :: ops := by
  have ho : row.opcode = op := by simpa using List.find?_some h
  rw [encode_of_mem_opTable _ _ row (List.mem_of_find?_eq_some h), operandsOf_getD hn, ho]

theorem length_encode_bounds (i : Instr) : 1 ≤ (encode i).length ∧ (encode i).length ≤ 3 := by
  obtain ⟨row, op, ops, he, -, hn, -⟩ := encode_row i
  rw [he, List.length_cons, hn]
  rcases operandBytes_cases row.mode with h | h | h <;> omega

/-! ### The obligations -/

/-- Settles O1: an encoding is an opcode byte and its operand bytes, of which the decoder makes the row's instruction. -/
theorem decodeOfEncodeIsIdentity : Obligations.DecodeOfEncodeIsIdentity := by
  intro i rest
  obtain ⟨row, op, ops, he, hr, hn, hi⟩ := encode_row i
  rw [he]
  exact decode_ok_iff.2 ⟨op, row, ops, rfl, hr, hn, hi⟩

/-- Settles O2: what decodes is an opcode byte, its operand bytes and the rest, and the encoder gives those bytes back. -/
theorem encodeOfDecodeIsIdentity : Obligations.EncodeOfDecodeIsIdentity := by
  intro bytes rest i h
  refine ⟨?_, length_encode_bounds i⟩
  obtain ⟨op, row, ops, rfl, hr, hn, rfl⟩ := decode_ok_iff.1 h
  rw [encode_instr hr hn]

/-- Settles O3: the map has no row for exactly the bytes R170 lists, and a fetch that finds no row is the step's fault. -/
theorem undefinedOpcodesFault : Obligations.UndefinedOpcodesFault :=
  ⟨fun _ _ => decode_undefinedOpcode_iff, fun _ _ _ hs hread hop => step_of_fetch_error hs (fetch_undefined hread hop)⟩

/-- Settles O4: each word is the encoding of its instruction, so it decodes to it (O1). -/
theorem specWordsDecode : Obligations.SpecWordsDecode :=
  ⟨decodeOfEncodeIsIdentity (.ldaImm 0x05) [0x85, 0x00, 0x00], decodeOfEncodeIsIdentity (.staZp 0x00) [0x00],
    decodeOfEncodeIsIdentity .brk [], decodeOfEncodeIsIdentity (.ldaAbs 0x1234) [],
    decodeOfEncodeIsIdentity (.adcIndY 0x10) [], decodeOfEncodeIsIdentity (.rorAbsX 0x0200) [],
    decodeOfEncodeIsIdentity (.jmpInd 0x02FF) [], decodeOfEncodeIsIdentity (.bne 0xFE) [],
    decodeOfEncodeIsIdentity .plp []⟩

end Sys2Proof.Machine
end

section
/-! The step runs the instruction whose encoding stands at PC in plain memory (O5): reading plain memory byte by byte gives the
bytes and changes nothing, and that is the fetch (O6). -/

namespace Sys2Proof.Machine

open Claims

variable {s : State}

/-- Bytes that stand in plain memory one after the other are read as they stand, without effect. -/
theorem readBytes_of_peek {a : Addr} {l : List Byte}
    (h : ∀ k b, l[k]? = some b → s.peek (a + BitVec.ofNat 16 k) = some b) : readBytes l.length a s = .ok (l, s) := by
  induction l generalizing a with
  | nil => rfl
  | cons b l ih =>
    have h0 : s.peek a = some b := by simpa using h 0 b rfl
    have hl : readBytes l.length (a + 1) s = .ok (l, s) := ih fun k c hk => by
      have hs := h (k + 1) c (by simpa using hk)
      rwa [Nat.add_comm k 1, BitVec.ofNat_add, ← BitVec.add_assoc] at hs
    simp only [List.length_cons, readBytes, read_of_peek s h0, hl]

/-- Settles O5: the bytes at PC are what the fetch's reads give, and plain memory has no read effects (O6). -/
theorem stepRunsDecodedInstruction : Obligations.StepRunsDecodedInstruction :=
  fun s i hs hb => fetchGoesThroughTheBus.1 s s i hs (readBytes_of_peek hb)

end Sys2Proof.Machine
end

section
/-! Operand addresses (O12), branches (O22) and jumps (O23) on numbers. -/

namespace Sys2Proof.Machine

open Claims

variable (s : State) (a : Addr)

/-! ### Effective addresses -/

theorem toNat_indexed (i : Byte) : (a + i.setWidth 16).toNat = (a.toNat + i.toNat) % 65536 := by
  have := i.isLt
  rw [BitVec.toNat_add, BitVec.toNat_setWidth, Nat.mod_eq_of_lt (a := i.toNat) (by omega)]

/-- Two addresses lie in one page when their numbers do (R199, R280). -/
theorem hiByte_eq_iff (a a' : Addr) : hiByte a = hiByte a' ↔ a.toNat / 256 = a'.toNat / 256 := by
  rw [← BitVec.toNat_inj, toNat_hiByte, toNat_hiByte]

theorem hiByte_bne (a a' : Addr) : (hiByte a != hiByte a') = decide (a.toNat / 256 ≠ a'.toNat / 256) := by
  rw [Bool.eq_iff_iff, bne_iff_ne, decide_eq_true_iff, ne_eq, hiByte_eq_iff]

/-- A zero-page address by its number. -/
theorem ofNat_eq_zpAddr {b : Byte} {n : Nat} (h : n = b.toNat) : BitVec.ofNat 16 n = zpAddr b := by
  have := b.isLt
  apply BitVec.eq_of_toNat_eq
  rw [toNat_zpAddr, BitVec.toNat_ofNat]
  omega

/-- The two bus reads of a zero-page pointer, low byte first, the second address wrapping in the page (R201, R202). -/
theorem zpPointer_reads (p : Byte) : ∃ lo hi : Byte,
    read (BitVec.ofNat 16 p.toNat) s = .ok (lo, s) ∧ read (BitVec.ofNat 16 ((p.toNat + 1) % 256)) s = .ok (hi, s) ∧
      (s.zpPointer p).toNat = hi.toNat * 256 + lo.toNat := by
  refine ⟨s.ramAt (zpAddr p), s.ramAt (zpAddr (p + 1)), ?_, ?_, toNat_hiLo _ _⟩
  · rw [ofNat_eq_zpAddr rfl]
    exact zp_is_read s p
  · have h1 : (p.toNat + 1) % 256 = (p + 1).toNat := (BitVec.toNat_add p 1).symm
    rw [h1, ofNat_eq_zpAddr rfl]
    exact zp_is_read s (p + 1)

/-- Only LDX and STX have the mode zero page,Y (R197). -/
theorem zeroPageY_opcodes : ∀ row ∈ opTable, row.mode = .zeroPageY → row.opcode = 0xB6 ∨ row.opcode = 0x96 := by
  have h : (opTable.all fun r => r.mode != .zeroPageY || r.opcode == 0xB6 || r.opcode == 0x96) = true := by decide
  intro row hrow hm
  have hr := List.all_eq_true.1 h row hrow
  simpa [hm] using hr

/-- Settles O12: each mode's address on numbers, the pointer modes by the bus reads of their pointer. -/
theorem effectiveAddresses : Obligations.EffectiveAddresses := by
  intro s b a
  refine ⟨toNat_zpAddr b, toNat_zpAddr _, toNat_zpAddr _, rfl, toNat_indexed a s.x, ?_, toNat_indexed a s.y, ?_, ?_, ?_,
    by simp [MemOperand.crossed], by simp [MemOperand.length], by simp [MemOperand.length], zeroPageY_opcodes⟩
  · rw [← toNat_indexed]
    exact hiByte_bne _ _
  · rw [← toNat_indexed]
    exact hiByte_bne _ _
  · obtain ⟨lo, hi, hlo, hhi, hp⟩ := zpPointer_reads s (b + s.x)
    rw [BitVec.toNat_add] at hlo hhi
    rw [Nat.mod_add_mod] at hhi
    exact ⟨lo, hi, hlo, hhi, hp⟩
  · obtain ⟨lo, hi, hlo, hhi, hp⟩ := zpPointer_reads s b
    have hl := lo.isLt
    refine ⟨lo, hi, hlo, hhi, ?_, ?_⟩
    · rw [← hp]
      exact toNat_indexed _ s.y
    · rw [← hp, ← toNat_indexed, show hi.toNat = (s.zpPointer b).toNat / 256 by omega]
      exact hiByte_bne _ _

/-! ### Branches -/

/-- An instruction is encoded as the bytes the encoder writes (O1). -/
theorem encodes_of_encode {i : Instr} {bytes : List Byte} (h : encode i = bytes) : Encodes i bytes :=
  ⟨h, fun rest => h ▸ decodeOfEncodeIsIdentity i rest⟩

theorem toNat_branchNext : (s.pc + 2).toNat = branchNext s := BitVec.toNat_add s.pc 2

/-- Adding a sign-extended offset mod 65536 is adding it on the integers (R204). -/
theorem toNat_branchTarget (off : Byte) : (s.pc + 2 + sext16 off).toNat = branchTarget s off := by
  have hn : s.pc + 2 = BitVec.ofInt 16 (branchNext s) := by
    rw [← toNat_branchNext, BitVec.ofInt_natCast, BitVec.ofNat_toNat, BitVec.setWidth_eq]
  rw [hn, sext16, BitVec.signExtend, ← BitVec.ofInt_add, BitVec.toNat_ofInt]
  rfl

theorem branchForms_exec (off : Byte) :
    ∀ f ∈ branchForms, exec (f.instr off) s = branchInstr (f.cond s.p) off s := List.map_inj_left.1 rfl

theorem branchForms_encode (off : Byte) : ∀ f ∈ branchForms, encode (f.instr off) = [f.opcode, off] :=
  List.map_inj_left.1 rfl

/-- Settles O22: every branch is `branchInstr` of its condition, whose addresses are those of R204 on the integers. -/
theorem branchesGoToTheirTarget : Obligations.BranchesGoToTheirTarget := by
  intro f hf off s
  refine ⟨encodes_of_encode (branchForms_encode off f hf), ?_⟩
  rw [branchForms_exec s off f hf, branchInstr_eq, ← toNat_branchNext, ← toNat_branchTarget]
  simp only [BitVec.ofNat_toNat, BitVec.setWidth_eq, ← hiByte_eq_iff]
  exact ⟨fun taken => by rw [taken]; rfl, fun notTaken => by rw [notTaken]; rfl⟩

/-! ### Jumps -/

theorem execJmpInd_fault_low {a : Addr} (h : unmapped a = true) : execJmpInd a s = .fault (.unmappedAddress a) := by
  simp only [execJmpInd, read_unmapped _ h]

theorem execJmpInd_fault_high {a : Addr} (h : unmapped a = false) (h' : unmapped (hiLo (hiByte a) (loByte a + 1)) = true) :
    execJmpInd a s = .fault (.unmappedAddress (hiLo (hiByte a) (loByte a + 1))) := by
  simp only [execJmpInd, read_of_mapped _ h, read_unmapped _ h']

/-- Settles O23: JMP indirect is its two reads, and the first that is unmapped is its fault. -/
theorem jumpsSetPc : Obligations.JumpsSetPc := by
  intro l h s ptr ptr'
  have hp : hiLo (hiByte ptr) (loByte ptr + 1) = ptr' := by rw [hiByte_hiLo, loByte_hiLo]
  have encode_abs : encode (.jmpAbs ptr) = [0x4C, l, h] := by simp [encode, ptr]
  have encode_ind : encode (.jmpInd ptr) = [0x6C, l, h] := by simp [encode, ptr]
  refine ⟨⟨encodes_of_encode encode_abs, rfl⟩, encodes_of_encode encode_ind, fun hlo hhi => ?_, execJmpInd_fault_low s,
    fun hlo hhi => ?_⟩
  · rw [← hp] at hhi ⊢
    exact execJmpInd_eq ptr s hlo hhi
  · rw [← hp] at hhi ⊢
    exact execJmpInd_fault_high s hlo hhi

end Sys2Proof.Machine
end

section
/-! Stack round trips (O28): what the stack operations do to RAM and SP, on the stack places of page 1, and that a pull takes
back what a push stored. -/

namespace Sys2Proof.Machine

open Claims

variable (s : State) {b : Byte} (w : Addr)

/-! ### Stack places -/

theorem read_stackPut_self (ram : Memory Byte) (sp : Byte) :
    Memory.read 0 (stackPut ram sp b) (0x100 + sp.toNat) = b := Memory.read_write_self _ _ _ _

/-- A byte stored in one stack place leaves the other places alone. -/
theorem read_stackPut_other (ram : Memory Byte) {sp sp' : Byte} (h : sp' ≠ sp) :
    Memory.read 0 (stackPut ram sp b) (0x100 + sp'.toNat) = Memory.read 0 ram (0x100 + sp'.toNat) :=
  Memory.read_write_other _ _ _ _ _ fun e => h (BitVec.eq_of_toNat_eq (Nat.add_left_cancel e))

theorem stackAt_stackPut {t : State} {ram : Memory Byte} {sp : Byte} (h : t.ram = stackPut ram sp b) :
    stackAt t sp = b := by
  rw [stackAt, h, read_stackPut_self]

/-! ### The stack operations on stack places -/

theorem push_eq : push b s = { s with ram := stackPut s.ram s.sp b, sp := s.sp - 1 } := by
  rw [push, State.ramPut, ramIndex_stackAddr]
  rfl

theorem push16_eq : push16 w s = { s with
    ram := stackPut (stackPut s.ram s.sp (hiByte w)) (s.sp - 1) (loByte w), sp := s.sp - 2 } := by
  rw [push16, push_eq, push_eq]
  simp only [BitVec.sub_sub]
  rfl

theorem takeInterrupt_eq (bflag : Bool) (v : Addr) : takeInterrupt bflag v s = { s with
    ram := interruptFrame s s.pc bflag, sp := s.sp - 3, p := { s.p with i := true }, pc := s.vectorAt v } := by
  rw [takeInterrupt, push16_eq, push_eq]
  simp only [BitVec.sub_sub]
  rfl

theorem pulled_eq : pulled s = stackAt s (s.sp + 1) := by
  rw [pulled, State.ramAt, ramIndex_stackAddr, stackAt]

theorem pulled16_eq : pulled16 s = hiLo (stackAt s (s.sp + 2)) (stackAt s (s.sp + 1)) := by
  rw [pulled16, pulled_eq, pulled_eq]
  simp only [pull, State.setSp_sp, BitVec.add_assoc]
  rfl

/-! ### The instructions on the stack -/

theorem exec_pha : exec .pha s = .next { s with
    ram := stackPut s.ram s.sp s.a, sp := s.sp - 1, pc := s.pc + 1, extraCycles := 0, cycles := 3 } := by
  simp only [exec, execPha, impliedInstr, push_eq]
  rfl

theorem exec_php : exec .php s = .next { s with
    ram := stackPut s.ram s.sp (s.p.pack true), sp := s.sp - 1, pc := s.pc + 1, extraCycles := 0, cycles := 3 } := by
  simp only [exec, execPhp, impliedInstr, push_eq]
  rfl

theorem exec_jsr : exec (.jsr w) s = .next { s with
    ram := stackPut (stackPut s.ram s.sp (hiByte (s.pc + 2))) (s.sp - 1) (loByte (s.pc + 2))
    sp := s.sp - 2, pc := w, extraCycles := 0, cycles := 6 } := by
  simp only [exec, execJsr, push16_eq]
  rfl

theorem exec_pla : exec .pla s = .next { s with
    a := stackAt s (s.sp + 1), p := s.p.setNZ (stackAt s (s.sp + 1))
    sp := s.sp + 1, pc := s.pc + 1, extraCycles := 0, cycles := 4 } := by
  simp only [exec, execPla, impliedInstr, pulled_eq]
  rfl

theorem exec_plp : exec .plp s = .next { s with
    p := Flags.unpack (stackAt s (s.sp + 1)), sp := s.sp + 1, pc := s.pc + 1, extraCycles := 0, cycles := 4 } := by
  simp only [exec, execPlp, impliedInstr, pulled_eq]
  rfl

theorem exec_rts : exec .rts s = .next { s with
    sp := s.sp + 2, pc := hiLo (stackAt s (s.sp + 2)) (stackAt s (s.sp + 1)) + 1, extraCycles := 0, cycles := 6 } := by
  simp only [exec, execRts, impliedInstr, pulled16_eq, pull16, pull, State.setSp_sp, BitVec.add_assoc]
  rfl

theorem exec_rti : exec .rti s = .next { s with
    sp := s.sp + 3, p := Flags.unpack (stackAt s (s.sp + 1))
    pc := hiLo (stackAt s (s.sp + 3)) (stackAt s (s.sp + 2)), extraCycles := 0, cycles := 6 } := by
  simp only [exec, execRti, impliedInstr, returnFromInterrupt_changes, pulled_eq, pulled16_eq, pull, State.setSp_sp,
    BitVec.add_assoc]
  rfl

/-! ### The round trips -/

/-- Unpacking a packed status byte gives the flags back, but for B, which is the bit pushed (R37, R38). -/
theorem unpack_pack (p : Flags) (bflag : Bool) : Flags.unpack (p.pack bflag) = { p with b := bflag } := by
  obtain ⟨hn, hv, -, hb, hd, hi, hz, hc⟩ := pack_getLsbD p bflag
  simp only [Flags.unpack, hn, hv, hb, hd, hi, hz, hc]

/-- RTS takes back a pushed return address, and adds 1 (R291). -/
theorem exec_rts_of_pushed {t : State} (hr : t.ram = stackPut (stackPut s.ram s.sp (hiByte w)) (s.sp - 1) (loByte w))
    (hsp : t.sp = s.sp - 2) : exec .rts t = .next { t with sp := s.sp, pc := w + 1, extraCycles := 0, cycles := 6 } := by
  have h1 : s.sp - 2 + 1 = s.sp - 1 := by bv_omega
  have h2 : s.sp - 2 + 2 = s.sp := BitVec.sub_add_cancel _ _
  have hlo : stackAt t (s.sp - 1) = loByte w := stackAt_stackPut hr
  have hhi : stackAt t s.sp = hiByte w := by
    rw [stackAt, hr, read_stackPut_other _ (by bv_omega), read_stackPut_self]
  rw [exec_rts, hsp, h1, h2, hlo, hhi, hiLo_hiByte_loByte]

/-- RTI takes back what an interrupt's entry pushed (R345). -/
theorem exec_rti_of_entered {t : State} {bflag : Bool} (hr : t.ram = interruptFrame s s.pc bflag)
    (hsp : t.sp = s.sp - 3) : exec .rti t = .next { t with
      sp := s.sp, p := { s.p with b := bflag }, pc := s.pc, extraCycles := 0, cycles := 6 } := by
  have h1 : s.sp - 3 + 1 = s.sp - 2 := by bv_omega
  have h2 : s.sp - 3 + 2 = s.sp - 1 := by bv_omega
  have h3 : s.sp - 3 + 3 = s.sp := BitVec.sub_add_cancel _ _
  have hp : stackAt t (s.sp - 2) = s.p.pack bflag := stackAt_stackPut hr
  have hlo : stackAt t (s.sp - 1) = loByte s.pc := by
    rw [stackAt, hr, interruptFrame, read_stackPut_other _ (by bv_omega), read_stackPut_self]
  have hhi : stackAt t s.sp = hiByte s.pc := by
    rw [stackAt, hr, interruptFrame, read_stackPut_other _ (by bv_omega), read_stackPut_other _ (by bv_omega),
      read_stackPut_self]
  rw [exec_rti, hsp, h1, h2, h3, hp, hlo, hhi, hiLo_hiByte_loByte, unpack_pack]

/-- Settles O28: each pair of instructions by what its pulls take back. -/
theorem stackRoundTrips : Obligations.StackRoundTrips := by
  intro s target pc
  have h1 : s.sp - 1 + 1 = s.sp := BitVec.sub_add_cancel _ _
  refine ⟨⟨_, _, exec_jsr s target, exec_rts_of_pushed s (s.pc + 2) rfl rfl, ?_, rfl, rfl, rfl, rfl, rfl⟩,
    ⟨_, _, exec_pha s, exec_pla _, ?_, h1⟩, ⟨_, _, exec_php s, exec_plp _, ?_, h1⟩, ?_⟩
  · exact BitVec.add_assoc s.pc 2 1
  · dsimp only
    rw [h1]
    exact stackAt_stackPut rfl
  · dsimp only
    rw [h1, stackAt_stackPut rfl, unpack_pack]
  · simp only [List.forall_mem_cons, nmiEntry, irqEntry, takeInterrupt_eq]
    exact ⟨⟨_, exec_rti_of_entered s rfl rfl, rfl, rfl, rfl, rfl, rfl, rfl⟩,
      ⟨_, exec_rti_of_entered s rfl rfl, rfl, rfl, rfl, rfl, rfl, rfl⟩, by simp⟩

end Sys2Proof.Machine
end

section
/-! Frames: what every instruction leaves unchanged, and the read class (O30), whose one bus read can change a device alone. -/

namespace Sys2Proof.Machine

open Claims

variable {s t : State} {i : Instr}

/-! ### Every instruction -/

/-- An instruction leaves every register and flag it is not listed for and the rest of the CPU state unchanged, but for the
status, which BRK may set. -/
theorem exec_unchanged_but_status (h : exec i s = .next t) : Unchanged (listedWrites i) s { t with status := s.status } :=
  have w := exec_onlyWrites h
  have k := exec_cpuStep h
  ⟨w.a, w.x, w.y, w.sp, w.n, w.v, w.b, w.d, w.i, w.z, w.c, k.nmiRequest, rfl, k.cyclesTotal, k.irqLine, k.frames, k.cart,
    k.params⟩

theorem exec_unchanged (h : exec i s = .next t) (hs : t.status = s.status) : Unchanged (listedWrites i) s t := by
  have k := exec_unchanged_but_status h
  rwa [← hs] at k

theorem memoryUnchanged_of_ram (hr : t.ram = s.ram) (hc : t.cart = s.cart) : MemoryUnchanged s t := peek_congr hr hc

/-! ### Reads -/

/-- A bus read leaves the PPU's three memories alone. -/
theorem busRead_ppuMemories (a : Addr) (s : State) : (busRead a s).2.ppu.vram = s.ppu.vram ∧
    (busRead a s).2.ppu.palette = s.ppu.palette ∧ (busRead a s).2.ppu.oam = s.ppu.oam := by
  obtain ⟨u, c, n, h, rfl | rfl | rfl, -⟩ := busRead_changes s a <;> rw [h] <;> exact ⟨rfl, rfl, rfl⟩

/-- Outside the register window a bus read leaves the picture unit alone (R104). -/
theorem busRead_ppu_of_outside {a : Addr} (s : State) (h : ¬inPpuWindow a) : (busRead a s).2.ppu = s.ppu := by
  unfold busRead
  split_ifs with h1 h2
  · rfl
  · exact absurd ⟨Nat.le_of_not_lt h1, h2⟩ h
  · rfl
  · rfl
  · rfl

/-- A read of a PPU register leaves the controller alone. -/
theorem readPpu_ctl (n : Nat) (s : State) : (readPpu n s).2.ctl = s.ctl := by
  obtain ⟨_, _, h⟩ := readPpu_next n s
  rw [h]
  rfl

/-- A bus read of another address than 0x4016 leaves the controller alone (R111). -/
theorem busRead_ctl_of_ne {a : Addr} (s : State) (h : a.toNat ≠ 0x4016) : (busRead a s).2.ctl = s.ctl := by
  unfold busRead
  rw [if_neg h]
  split_ifs
  · rfl
  · exact readPpu_ctl _ s
  · rfl
  · rfl

/-- A read-class effect changes A, X, Y and the flags alone. -/
theorem readEffect_changes {e : Byte → State → State} (he : ReadEffect e) (m : Byte) (s : State) :
    ∃ a x y p, e m s = { s with a := a, x := x, y := y, p := p } := by
  cases he <;> exact ⟨_, _, _, _, rfl⟩

/-- A read-class instruction leaves the machine that its operand's read leaves, but for registers, flags and counts. -/
theorem readInstr_changes {o : Operand} {e : Byte → State → State} (he : ReadEffect e) (h : readInstr o e s = .next t) :
    ∃ a x y p pc k n, t = { (operandRead o s).2 with
      a := a, x := x, y := y, p := p, pc := pc, extraCycles := k, cycles := n } := by
  cases o with
  | imm b =>
    rw [readInstr_imm] at h
    obtain ⟨a, x, y, p, hq⟩ := readEffect_changes he b (startInstr 2 s)
    rw [← Host.Outcome.next.inj h, hq]
    exact ⟨_, _, _, _, _, _, _, rfl⟩
  | mem m =>
    obtain hu | hu := Bool.eq_false_or_eq_true (unmapped (m.ea s))
    · rw [readInstr_fault s m e hu] at h
      cases h
    · rw [readInstr_mem s m e hu] at h
      obtain ⟨a, x, y, p, hq⟩ := readEffect_changes he (busRead (m.ea s) s).1
        { (busRead (m.ea s) s).2 with pc := s.pc + BitVec.ofNat 16 m.length, extraCycles := 0 }
      rw [← Host.Outcome.next.inj h, hq]
      exact ⟨_, _, _, _, _, _, _, rfl⟩

/-- The one read of an operand changes devices alone, and a device only at its own addresses. -/
theorem operandRead_changes (o : Operand) (s : State) : ∃ u c n,
    (operandRead o s).2 = { s with ppu := u, ctl := c, draws := n } ∧
    (u.vram = s.ppu.vram ∧ u.palette = s.ppu.palette ∧ u.oam = s.ppu.oam) ∧
    ((∀ m, o = .mem m → ¬inPpuWindow (m.ea s)) → u = s.ppu) ∧
    ((∀ m, o = .mem m → (m.ea s).toNat ≠ 0x4016) → c = s.ctl) := by
  cases o with
  | imm b => exact ⟨s.ppu, s.ctl, s.draws, rfl, ⟨rfl, rfl, rfl⟩, fun _ => rfl, fun _ => rfl⟩
  | mem m =>
    exact ⟨_, _, _, busRead_frame s (m.ea s), busRead_ppuMemories _ s, fun h => busRead_ppu_of_outside s (h m rfl),
      fun h => busRead_ctl_of_ne s (h m rfl)⟩

/-- A table of the read class: its forms are one effect on their operands, and what they write is `k`. -/
structure ReadClass (forms : Byte → Byte → Byte → List ReadForm) (e : Byte → State → State) (k : Touches) : Prop where
  effect : ReadEffect e
  meaning : ∀ b l h, ∀ f ∈ forms b l h, exec f.instr = readInstr f.operand e
  writes : ∀ b l h, ∀ f ∈ forms b l h, listedWrites f.instr = k

/-- By the whole table at once. -/
theorem ReadClass.of_map {forms : Byte → Byte → Byte → List ReadForm} {e : Byte → State → State} {k : Touches}
    (he : ReadEffect e)
    (hx : ∀ b l h, (forms b l h).map (exec ·.instr) = (forms b l h).map (readInstr ·.operand e))
    (hw : ∀ b l h, (forms b l h).map (listedWrites ·.instr) = (forms b l h).map fun _ => k) : ReadClass forms e k :=
  ⟨he, fun b l h => List.map_inj_left.1 (hx b l h), fun b l h => List.map_inj_left.1 (hw b l h)⟩

theorem ldaForms_readClass : ReadClass ldaForms loadA { a := true, n := true, z := true } :=
  .of_map .lda (fun _ _ _ => rfl) fun _ _ _ => rfl

theorem ldxForms_readClass : ReadClass ldxForms loadX { x := true, n := true, z := true } :=
  .of_map .ldx (fun _ _ _ => rfl) fun _ _ _ => rfl

theorem ldyForms_readClass : ReadClass ldyForms loadY { y := true, n := true, z := true } :=
  .of_map .ldy (fun _ _ _ => rfl) fun _ _ _ => rfl

theorem adcForms_readClass : ReadClass adcForms adcEffect { a := true, n := true, v := true, z := true, c := true } :=
  .of_map .adc (fun _ _ _ => rfl) fun _ _ _ => rfl

theorem sbcForms_readClass : ReadClass sbcForms sbcEffect { a := true, n := true, v := true, z := true, c := true } :=
  .of_map .sbc (fun _ _ _ => rfl) fun _ _ _ => rfl

theorem andForms_readClass : ReadClass andForms andEffect { a := true, n := true, z := true } :=
  .of_map .and (fun _ _ _ => rfl) fun _ _ _ => rfl

theorem oraForms_readClass : ReadClass oraForms oraEffect { a := true, n := true, z := true } :=
  .of_map .ora (fun _ _ _ => rfl) fun _ _ _ => rfl

theorem eorForms_readClass : ReadClass eorForms eorEffect { a := true, n := true, z := true } :=
  .of_map .eor (fun _ _ _ => rfl) fun _ _ _ => rfl

theorem cmpForms_readClass : ReadClass cmpForms cmpEffect { n := true, z := true, c := true } :=
  .of_map .cmp (fun _ _ _ => rfl) fun _ _ _ => rfl

theorem cpxForms_readClass : ReadClass cpxForms cpxEffect { n := true, z := true, c := true } :=
  .of_map .cpx (fun _ _ _ => rfl) fun _ _ _ => rfl

theorem cpyForms_readClass : ReadClass cpyForms cpyEffect { n := true, z := true, c := true } :=
  .of_map .cpy (fun _ _ _ => rfl) fun _ _ _ => rfl

theorem bitForms_readClass : ReadClass bitForms bitEffect { n := true, v := true, z := true } :=
  .of_map .bit (fun _ _ _ => rfl) fun _ _ _ => rfl

/-- What a form of a table of the read class leaves unchanged (R205). -/
theorem ReadClass.frame {forms : Byte → Byte → Byte → List ReadForm} {e : Byte → State → State} {k : Touches}
    {b l h : Byte} {f : ReadForm} (c : ReadClass forms e k) (hf : f ∈ forms b l h) (hx : exec f.instr s = .next t) :
    Unchanged k s t ∧ MemoryUnchanged s t ∧
    t.ppu.vram = s.ppu.vram ∧ t.ppu.palette = s.ppu.palette ∧ t.ppu.oam = s.ppu.oam ∧
    ((∀ m, f.operand = .mem m → ¬inPpuWindow (m.ea s)) → t.ppu = s.ppu) ∧
    ((∀ m, f.operand = .mem m → (m.ea s).toNat ≠ 0x4016) → t.ctl = s.ctl) := by
  have hk := exec_unchanged (s := s) (t := t) (i := f.instr) hx
  rw [c.writes b l h f hf] at hk
  rw [c.meaning b l h f hf] at hx
  obtain ⟨a, x, y, p, pc, n, n', rfl⟩ := readInstr_changes c.effect hx
  obtain ⟨u, q, d, ho, ⟨hvram, hpalette, hoam⟩, hu, hq⟩ := operandRead_changes f.operand s
  rw [ho] at hk ⊢
  exact ⟨hk rfl, memoryUnchanged_of_ram rfl rfl, hvram, hpalette, hoam, hu, hq⟩

/-- Settles O30: each table is one effect of the read class on its operands. -/
theorem readClassFrame : Obligations.ReadClassFrame := by
  intro b l h s t
  simp only [List.forall_mem_cons]
  exact ⟨fun _ => ldaForms_readClass.frame, fun _ => ldxForms_readClass.frame, fun _ => ldyForms_readClass.frame,
    fun _ => adcForms_readClass.frame, fun _ => sbcForms_readClass.frame, fun _ => andForms_readClass.frame,
    fun _ => oraForms_readClass.frame, fun _ => eorForms_readClass.frame, fun _ => cmpForms_readClass.frame,
    fun _ => cpxForms_readClass.frame, fun _ => cpyForms_readClass.frame, fun _ => bitForms_readClass.frame,
    List.forall_mem_nil _⟩

end Sys2Proof.Machine
end

section
/-! Frames of the instructions that write through the bus (O31, O32): all that a read and a write at one address can change. -/

namespace Sys2Proof.Machine

open Claims

variable {s t u : State}

/-- All that accesses at `a` change of memory and the devices: the byte of RAM `a` names, and the device at `a`, or those a DMA
reads from. -/
structure AccessesAt (a : Addr) (s t : State) : Prop where
  memory : ∀ x, ¬SameRamByte x a → t.peek x = s.peek x
  ppu : ¬inPpuWindow a → a.toNat ≠ 0x4014 → t.ppu = s.ppu
  ctl : a.toNat ≠ 0x4014 → a.toNat ≠ 0x4016 → t.ctl = s.ctl

variable {a : Addr}

theorem AccessesAt.trans (h : AccessesAt a s t) (k : AccessesAt a t u) : AccessesAt a s u :=
  ⟨fun x hx => (k.memory x hx).trans (h.memory x hx), fun hw hd => (k.ppu hw hd).trans (h.ppu hw hd),
    fun hd hc => (k.ctl hd hc).trans (h.ctl hd hc)⟩

theorem busRead_accessesAt (a : Addr) (s : State) : AccessesAt a s (busRead a s).2 where
  memory x _ := peek_congr (by rw [busRead_frame]) (by rw [busRead_frame]) x
  ppu hw _ := busRead_ppu_of_outside s hw
  ctl _ hc := busRead_ctl_of_ne s hc

/-- A RAM write changes the byte its address names and no other byte of plain memory (R103). -/
theorem peek_ramPut_of_not_same {x : Addr} (s : State) (v : Byte) (ha : a.toNat < 0x2000) (h : ¬SameRamByte x a) :
    (s.ramPut a v).peek x = s.peek x := by
  by_cases hx : x.toNat < 0x2000
  · exact peek_ramPut s v fun e => h ⟨hx, ha, e⟩
  · unfold State.peek
    rw [if_neg hx, if_neg hx]
    rfl

theorem write_accessesAt {v : Byte} (h : write a v s = .ok t) : AccessesAt a s t := by
  rcases write_cases s h with ⟨ha, rfl⟩ | ⟨ha, ha', rfl⟩ | ⟨ha, hd⟩ | ⟨ha, rfl⟩ | ⟨-, rfl⟩
  · exact ⟨fun x hx => peek_ramPut_of_not_same s v ha hx, fun _ _ => rfl, fun _ _ => rfl⟩
  · exact ⟨fun x _ => peek_congr rfl rfl x, fun hw => absurd ⟨ha, ha'⟩ hw, fun _ _ => rfl⟩
  · obtain ⟨u, c, k, rfl⟩ := oamDma_changes v hd
    exact ⟨fun x _ => peek_congr rfl rfl x, fun _ hn => absurd ha hn, fun hn => absurd ha hn⟩
  · exact ⟨fun x _ => peek_congr rfl rfl x, fun _ _ => rfl, fun _ hn => absurd ha hn⟩
  · exact ⟨fun _ _ => rfl, fun _ _ => rfl, fun _ _ => rfl⟩

/-! ### The two classes -/

variable {m : MemOperand}

theorem writeInstr_accessesAt {v : Byte} (h : writeInstr m v s = .next t) :
    AccessesAt (m.ea s) s t ∧ t.status = s.status := by
  obtain ⟨s1, hw, rfl⟩ := writeInstr_next s h
  have hs : s1.status = s.status := by rw [write_frame _ hw]; rfl
  have w := write_accessesAt hw
  exact ⟨⟨w.memory, w.ppu, w.ctl⟩, hs⟩

theorem rmwInstr_accessesAt {op : Flags → Byte → RmwResult} (h : rmwInstr m op s = .next t) :
    AccessesAt (m.ea s) s t ∧ t.status = s.status := by
  obtain ⟨-, s1, hw, rfl⟩ := rmwInstr_next s h
  have hs : s1.status = s.status := by rw [write_frame _ hw, busRead_frame]
  have w := write_accessesAt hw
  exact ⟨(busRead_accessesAt _ s).trans ⟨w.memory, w.ppu, w.ctl⟩, hs⟩

/-- A table of memory forms: each is `run` on its operand, and what its instruction writes of the registers and flags is `k`. -/
structure MemClass (forms : List MemForm) (run : MemOperand → State → Host.Outcome State Fault Refusal) (k : Touches) :
    Prop where
  meaning : ∀ f ∈ forms, exec f.instr = run f.operand
  writes : ∀ f ∈ forms, listedWrites f.instr = k

theorem MemClass.of_map {forms : List MemForm} {run : MemOperand → State → Host.Outcome State Fault Refusal} {k : Touches}
    (hx : forms.map (exec ·.instr) = forms.map (run ·.operand))
    (hw : forms.map (listedWrites ·.instr) = forms.map fun _ => k) : MemClass forms run k :=
  ⟨List.map_inj_left.1 hx, List.map_inj_left.1 hw⟩

/-- What a form leaves unchanged when its class accesses its effective address alone. -/
theorem MemClass.frame {forms : List MemForm} {run : MemOperand → State → Host.Outcome State Fault Refusal} {k : Touches}
    {f : MemForm} (c : MemClass forms run k)
    (hrun : ∀ m, run m s = .next t → AccessesAt (m.ea s) s t ∧ t.status = s.status)
    (hf : f ∈ forms) (hx : exec f.instr s = .next t) :
    Unchanged k s t ∧
    (∀ a, ¬SameRamByte a (f.operand.ea s) → t.peek a = s.peek a) ∧
    (¬inPpuWindow (f.operand.ea s) → (f.operand.ea s).toNat ≠ 0x4014 → t.ppu = s.ppu) ∧
    ((f.operand.ea s).toNat ≠ 0x4014 → (f.operand.ea s).toNat ≠ 0x4016 → t.ctl = s.ctl) := by
  have hk := exec_unchanged (s := s) (t := t) (i := f.instr) hx
  rw [c.writes f hf] at hk
  rw [c.meaning f hf] at hx
  obtain ⟨h, hs⟩ := hrun f.operand hx
  exact ⟨hk hs, h.memory, h.ppu, h.ctl⟩

theorem staForms_memClass (b l h : Byte) : MemClass (staForms b l h) (fun m s => writeInstr m s.a s) {} := .of_map rfl rfl

theorem stxForms_memClass (b l h : Byte) : MemClass (stxForms b l h) (fun m s => writeInstr m s.x s) {} := .of_map rfl rfl

theorem styForms_memClass (b l h : Byte) : MemClass (styForms b l h) (fun m s => writeInstr m s.y s) {} := .of_map rfl rfl

theorem incForms_memClass (b l h : Byte) : MemClass (incForms b l h) (rmwInstr · incOp) { n := true, z := true } :=
  .of_map rfl rfl

theorem decForms_memClass (b l h : Byte) : MemClass (decForms b l h) (rmwInstr · decOp) { n := true, z := true } :=
  .of_map rfl rfl

theorem aslForms_memClass (b l h : Byte) : MemClass (aslForms b l h) (rmwInstr · aslOp) { n := true, z := true, c := true } :=
  .of_map rfl rfl

theorem lsrForms_memClass (b l h : Byte) : MemClass (lsrForms b l h) (rmwInstr · lsrOp) { n := true, z := true, c := true } :=
  .of_map rfl rfl

theorem rolForms_memClass (b l h : Byte) : MemClass (rolForms b l h) (rmwInstr · rolOp) { n := true, z := true, c := true } :=
  .of_map rfl rfl

theorem rorForms_memClass (b l h : Byte) : MemClass (rorForms b l h) (rmwInstr · rorOp) { n := true, z := true, c := true } :=
  .of_map rfl rfl

/-- Settles O31: a store accesses its effective address alone. -/
theorem storeFrame : Obligations.StoreFrame := by
  intro b l h s t
  simp only [List.forall_mem_append]
  exact ⟨⟨fun _ => (staForms_memClass b l h).frame fun _ => writeInstr_accessesAt,
    fun _ => (stxForms_memClass b l h).frame fun _ => writeInstr_accessesAt⟩,
    fun _ => (styForms_memClass b l h).frame fun _ => writeInstr_accessesAt⟩

/-- Settles O32: a read-modify-write instruction accesses its effective address alone. -/
theorem modifyFrame : Obligations.ModifyFrame := by
  intro b l h s t
  simp only [List.forall_mem_cons]
  exact ⟨fun _ => (incForms_memClass b l h).frame fun _ => rmwInstr_accessesAt,
    fun _ => (decForms_memClass b l h).frame fun _ => rmwInstr_accessesAt,
    fun _ => (aslForms_memClass b l h).frame fun _ => rmwInstr_accessesAt,
    fun _ => (lsrForms_memClass b l h).frame fun _ => rmwInstr_accessesAt,
    fun _ => (rolForms_memClass b l h).frame fun _ => rmwInstr_accessesAt,
    fun _ => (rorForms_memClass b l h).frame fun _ => rmwInstr_accessesAt, List.forall_mem_nil _⟩

end Sys2Proof.Machine
end

section
/-! Frames of the instructions that reach no operand through the bus (O33, O34): the pushes change the stack places they push
to, and none touches a device. -/

namespace Sys2Proof.Machine

open Claims

variable {s t u : State} {i : Instr}

/-! ### The stack places pushed to -/

/-- `n` pushes: SP goes down by `n`, and of plain memory only the `n` stack places from SP downward can change. -/
structure Pushes (n : Nat) (s t : State) : Prop where
  sp : t.sp = s.sp - BitVec.ofNat 8 n
  memory : ∀ a, (∀ k < n, ¬SameRamByte a (stackAddr (s.sp - BitVec.ofNat 8 k))) → t.peek a = s.peek a

theorem Pushes.trans {m n : Nat} (h : Pushes m s t) (k : Pushes n t u) : Pushes (m + n) s u := by
  have hsp : ∀ j, t.sp - BitVec.ofNat 8 j = s.sp - BitVec.ofNat 8 (m + j) := fun j => by
    rw [h.sp, BitVec.ofNat_add, BitVec.sub_sub]
  refine ⟨k.sp.trans (hsp n), fun a ha => ?_⟩
  have hk : ∀ j < n, ¬SameRamByte a (stackAddr (t.sp - BitVec.ofNat 8 j)) := fun j hj => by
    rw [hsp]
    exact ha (m + j) (by omega)
  exact (k.memory a hk).trans (h.memory a fun j hj => ha j (by omega))

theorem push_pushes (b : Byte) (s : State) : Pushes 1 s (push b s) := by
  have hlt : (stackAddr s.sp).toNat < 0x2000 := by
    have := s.sp.isLt
    rw [toNat_stackAddr]
    omega
  exact ⟨rfl, fun a ha => peek_ramPut_of_not_same s b hlt (by simpa using ha 0)⟩

theorem push16_pushes (w : Addr) (s : State) : Pushes 2 s (push16 w s) := (push_pushes _ s).trans (push_pushes _ _)

theorem takeInterrupt_pushes (bflag : Bool) (v : Addr) (s : State) : Pushes 3 s (takeInterrupt bflag v s) :=
  have h := (push16_pushes s.pc s).trans (push_pushes (s.p.pack bflag) _)
  ⟨h.sp, h.memory⟩

theorem impliedInstr_pushes {n c : Nat} {e : State → State} (h : impliedInstr c e s = .next t)
    (he : ∀ s, Pushes n s (e s)) : Pushes n s t := by
  have w := he (startInstr 1 s)
  rw [← Host.Outcome.next.inj h]
  exact ⟨w.sp, w.memory⟩

theorem execJsr_pushes {a : Addr} (h : execJsr a s = .next t) : Pushes 2 s t := by
  have w := push16_pushes (s.pc + 2) (startInstr 3 s)
  rw [← Host.Outcome.next.inj h]
  exact ⟨w.sp, w.memory⟩

/-! ### Instructions that touch no device -/

/-- The instructions with no operand in memory and no pointer there, but BRK, which may end the run (R292): what they access is
their own bytes and the stack. -/
def accessesNoDevice : Instr → Bool
  | .tax | .tay | .tsx | .txa | .txs | .tya | .inx | .iny | .dex | .dey | .aslA | .lsrA | .rolA | .rorA | .bcc _ | .bcs _ |
    .beq _ | .bmi _ | .bne _ | .bpl _ | .bvc _ | .bvs _ | .jmpAbs _ | .jsr _ | .rts | .rti | .pha | .php | .pla |
    .plp | .clc | .cld | .cli | .clv | .sec | .sed | .sei | .nop => true
  | _ => false

/-- The devices, the count of open-bus bytes and the status are as before. -/
structure CpuOnly (s t : State) : Prop where
  devices : DevicesUnchanged s t
  status : t.status = s.status

theorem CpuOnly.of_eq (hu : t.ppu = s.ppu) (hc : t.ctl = s.ctl) (hd : t.draws = s.draws) (hs : t.status = s.status) :
    CpuOnly s t :=
  ⟨⟨hu, hc, hd⟩, hs⟩

theorem impliedInstr_cpuOnly {n : Nat} {e : State → State} (h : impliedInstr n e s = .next t)
    (he : ∀ s, CpuOnly s (e s)) : CpuOnly s t := by
  have k := he (startInstr 1 s)
  rw [← Host.Outcome.next.inj h]
  exact ⟨k.devices, k.status⟩

theorem accInstr_cpuOnly {op : Flags → Byte → RmwResult} (h : accInstr op s = .next t) : CpuOnly s t := by
  rw [accInstr_eq] at h
  rw [← Host.Outcome.next.inj h]
  exact .of_eq rfl rfl rfl rfl

theorem branchInstr_cpuOnly {c : Bool} {off : Byte} (h : branchInstr c off s = .next t) : CpuOnly s t := by
  rw [branchInstr_eq] at h
  rw [← Host.Outcome.next.inj h]
  exact .of_eq rfl rfl rfl rfl

theorem takeInterrupt_cpuOnly (bflag : Bool) (v : Addr) (s : State) : CpuOnly s (takeInterrupt bflag v s) := by
  rw [takeInterrupt_eq]
  exact .of_eq rfl rfl rfl rfl

theorem exec_cpuOnly (hi : accessesNoDevice i = true) (h : exec i s = .next t) : CpuOnly s t := by
  cases i <;> simp only [exec] at h
  case aslA | lsrA | rolA | rorA => exact accInstr_cpuOnly h
  case bcc | bcs | beq | bmi | bne | bpl | bvc | bvs => exact branchInstr_cpuOnly h
  case jmpAbs =>
    rw [← Host.Outcome.next.inj h]
    exact .of_eq rfl rfl rfl rfl
  case jsr a =>
    rw [← Host.Outcome.next.inj ((exec_jsr s a).symm.trans h)]
    exact .of_eq rfl rfl rfl rfl
  case tax | tay | tsx | txa | txs | tya | inx | iny | dex | dey | rts | rti | pha | php | pla | plp | clc | cld | cli | clv |
      sec | sed | sei | nop =>
    exact impliedInstr_cpuOnly h fun s => .of_eq rfl rfl rfl rfl
  all_goals cases hi

/-- All that BRK can do: the interrupt's entry, or the end of the run with nothing pushed (R292). -/
theorem execBrk_next (h : exec .brk s = .next t) :
    t = finishInstr 7 (takeInterrupt true irqVector (startInstr 2 s)) ∨
    (s.params.brkPolicy = .halt ∧ t = finishInstr 7 ((startInstr 2 s).setStatus .halted)) := by
  simp only [exec, execBrk] at h
  split at h
  · exact .inl (Host.Outcome.next.inj h).symm
  · rename_i hp
    exact .inr ⟨hp, (Host.Outcome.next.inj h).symm⟩

/-- JMP indirect leaves the status alone. -/
theorem execJmpInd_status {a : Addr} (h : execJmpInd a s = .next t) : t.status = s.status := by
  obtain hlo | hlo := Bool.eq_false_or_eq_true (unmapped a)
  · rw [execJmpInd_fault_low s hlo] at h
    cases h
  obtain hhi | hhi := Bool.eq_false_or_eq_true (unmapped (hiLo (hiByte a) (loByte a + 1)))
  · rw [execJmpInd_fault_high s hlo hhi] at h
    cases h
  rw [execJmpInd_eq a s hlo hhi] at h
  rw [← Host.Outcome.next.inj h]
  dsimp only
  rw [busRead_frame, busRead_frame]

/-! ### The obligations -/

/-- What an instruction that only pushes leaves unchanged. -/
theorem Pushes.frame {n : Nat} (w : Pushes n s t) (hi : accessesNoDevice i = true) (hx : exec i s = .next t) :
    Unchanged (listedWrites i) s { t with status := s.status } ∧
    (t.status = s.status ∨ (i = .brk ∧ s.params.brkPolicy = .halt)) ∧
    DevicesUnchanged s t ∧
    (∀ a, (∀ k < n, ¬SameRamByte a (stackAddr (s.sp - BitVec.ofNat 8 k))) → t.peek a = s.peek a) :=
  have k := exec_cpuOnly hi hx
  ⟨exec_unchanged_but_status hx, .inl k.status, k.devices, w.memory⟩

/-- Settles O33: each is its pushes, but for BRK under the halt policy, which pushes nothing. -/
theorem pushFrame : Obligations.PushFrame := by
  intro s t target
  simp only [List.forall_mem_cons]
  refine ⟨fun hx => (impliedInstr_pushes (e := fun s => push s.a s) hx fun s => push_pushes s.a s).frame rfl hx,
    fun hx => (impliedInstr_pushes (e := fun s => push (s.p.pack true) s) hx fun s => push_pushes _ s).frame rfl hx,
    fun hx => (execJsr_pushes hx).frame rfl hx, fun hx => ?_, List.forall_mem_nil _⟩
  have hk := exec_unchanged_but_status hx
  rcases execBrk_next hx with rfl | ⟨hp, rfl⟩
  · have w := takeInterrupt_pushes true irqVector (startInstr 2 s)
    have k := takeInterrupt_cpuOnly true irqVector (startInstr 2 s)
    exact ⟨hk, .inl k.status, k.devices, w.memory⟩
  · exact ⟨hk, .inr ⟨trivial, hp⟩, ⟨rfl, rfl, rfl⟩, fun _ _ => rfl⟩

/-- What the instructions of a table leave unchanged, when they store nothing and JMP indirect is the only one of them to access
a device. -/
theorem registerFrame_of_rows {rows : List (Instr × Touches)} {a : Addr}
    (hk : rows.map (listedWrites ·.1) = rows.map (·.2)) (hm : rows.map (storesMemory ·.1) = rows.map fun _ => false)
    (hd : rows.filter (!accessesNoDevice ·.1) = [(.jmpInd a, {})]) :
    ∀ row ∈ rows, exec row.1 s = .next t →
      Unchanged row.2 s t ∧ MemoryUnchanged s t ∧ (row.1 ≠ .jmpInd a → DevicesUnchanged s t) := by
  intro row hrow hx
  have hc : row.1 = .jmpInd a ∨ CpuOnly s t := by
    obtain hn | hn := Bool.eq_false_or_eq_true (accessesNoDevice row.1)
    · exact .inr (exec_cpuOnly hn hx)
    · have hj : row ∈ rows.filter (!accessesNoDevice ·.1) := List.mem_filter.2 ⟨hrow, by rw [hn]; rfl⟩
      rw [hd, List.mem_singleton] at hj
      exact .inl (congrArg Prod.fst hj)
  have hs : t.status = s.status := by
    rcases hc with hj | k
    · rw [hj] at hx
      exact execJmpInd_status hx
    · exact k.status
  have hu := exec_unchanged hx hs
  rw [List.map_inj_left.1 hk row hrow] at hu
  exact ⟨hu, memoryUnchanged_of_ram ((exec_onlyWrites hx).ram (List.map_inj_left.1 hm row hrow)) (exec_cpuStep hx).cart,
    fun hj => (hc.resolve_left hj).devices⟩

/-- Settles O34: by what the lists of writers name for each row, and by `exec_cpuOnly`. -/
theorem registerInstructionFrame : Obligations.RegisterInstructionFrame :=
  fun _ _ _ _ => registerFrame_of_rows rfl rfl rfl

end Sys2Proof.Machine
end

section
/-! Loads, stores and transfers (O9, O10, O11): a row of a table agrees with the encoder and with its operand's length and cycle
counts, so the rule of its class is the rule of its form. -/

namespace Sys2Proof.Machine

open Claims

variable {s : State}

/-! ### The read class -/

/-- A read-class instruction whose operand can be read does its effect after the one read, in every operand form (R205). -/
theorem readInstr_of_mapped {o : Operand} (e : Byte → State → State) (h : mapped o s = true) :
    readInstr o e s = .next (finishInstr (o.readCycles + o.penalty s) (e (operandRead o s).1
      { (operandRead o s).2 with pc := s.pc + BitVec.ofNat 16 o.length, extraCycles := 0 })) := by
  cases o with
  | imm b => rfl
  | mem m => exact readInstr_mem s m e (by simpa [mapped] using h)

theorem penalty_eq_pageCrossed (o : Operand) (s : State) : o.penalty s = if pageCrossed o s then 1 else 0 := by
  cases o <;> rfl

/-- A row of a table of the read class agrees with the encoder and with its operand's length and cycles (R160, R208, R451). -/
structure ReadRow (f : ReadForm) : Prop where
  encoded : encode f.instr = f.bytes
  length : f.bytes.length = f.operand.length
  cycles : f.cycles = f.operand.readCycles
  crossing : (fun s => f.crossing && pageCrossed f.operand s) = pageCrossed f.operand

/-- By the whole table at once. -/
theorem readRow_of_map {l : List ReadForm} (he : l.map (encode ·.instr) = l.map (·.bytes))
    (hl : l.map (·.bytes.length) = l.map (·.operand.length)) (hc : l.map (·.cycles) = l.map (·.operand.readCycles))
    (hx : l.map (fun f s => f.crossing && pageCrossed f.operand s) = l.map (pageCrossed ·.operand)) :
    ∀ f ∈ l, ReadRow f := fun f hf =>
  ⟨List.map_inj_left.1 he f hf, List.map_inj_left.1 hl f hf, List.map_inj_left.1 hc f hf, List.map_inj_left.1 hx f hf⟩

/-- The model's effect `e` is the rule's `effect`: whatever the read did to the devices, and wherever PC goes. -/
def EffectMeans (e : Byte → State → State) (effect : State → Byte → State → State) : Prop :=
  ∀ (s : State) (u : Ppu) (c : Controller) (d : Nat) (pc : Addr) (m : Byte) (n : Nat),
    finishInstr n (e m { s with ppu := u, ctl := c, draws := d, pc := pc, extraCycles := 0 }) =
      effect s m { s with ppu := u, ctl := c, draws := d, pc := pc, extraCycles := 0, cycles := n }

/-- A table of the read class whose rows agree follows its rule when its effect means the rule's. -/
theorem ReadClass.rule {forms : Byte → Byte → Byte → List ReadForm} {e : Byte → State → State} {k : Touches}
    {effect : State → Byte → State → State} (c : ReadClass forms e k) (ha : ∀ b l h, ∀ f ∈ forms b l h, ReadRow f)
    (he : EffectMeans e effect) : ReadRule forms effect := by
  intro b l h s f hf
  have a := ha b l h f hf
  have hx : exec f.instr = readInstr f.operand e := c.meaning b l h f hf
  refine ⟨encodes_of_encode a.encoded, fun hm => ?_, fun m ho hu => ?_⟩
  · obtain ⟨u, q, d, hread, -⟩ := operandRead_changes f.operand s
    rw [hx, readInstr_of_mapped e hm, hread, congrFun a.crossing s, a.length, a.cycles, penalty_eq_pageCrossed]
    exact congrArg Host.Outcome.next (he s u q d _ _ _)
  · rw [hx, ho, readInstr_fault s m e hu]

/-! ### The write class -/

/-- A write-class instruction is its one bus write, PC and the count apart (R205). -/
theorem writeInstr_of_write_ok {m : MemOperand} {v : Byte} {t : State}
    (h : write (m.ea s) v { s with extraCycles := 0 } = .ok t) : writeInstr m v s = .next { t with
      pc := s.pc + BitVec.ofNat 16 m.length, cycles := m.writeCycles + t.extraCycles } := by
  have hw : write (m.ea s) v (startInstr m.length s) = .ok (t.setPc (s.pc + BitVec.ofNat 16 m.length)) :=
    (write_setPc { s with extraCycles := 0 } _ _ _).trans (by rw [h]; rfl)
  simp only [writeInstr_eq, hw]
  rfl

theorem writeInstr_of_write_error {m : MemOperand} {v : Byte} {r : Fault}
    (h : write (m.ea s) v (startInstr m.length s) = .error r) : writeInstr m v s = .fault r := by
  simp only [writeInstr_eq, h]

/-- A row of a table of memory forms agrees with the encoder, with its operand's length and with the cycles its class takes. -/
structure MemRow (cycles : MemOperand → Nat) (f : MemForm) : Prop where
  encoded : encode f.instr = f.bytes
  length : f.bytes.length = f.operand.length
  cycles : f.cycles = cycles f.operand

/-- By the whole table at once. -/
theorem memRow_of_map {l : List MemForm} {cycles : MemOperand → Nat}
    (he : l.map (encode ·.instr) = l.map (·.bytes)) (hl : l.map (·.bytes.length) = l.map (·.operand.length))
    (hc : l.map (·.cycles) = l.map (cycles ·.operand)) : ∀ f ∈ l, MemRow cycles f := fun f hf =>
  ⟨List.map_inj_left.1 he f hf, List.map_inj_left.1 hl f hf, List.map_inj_left.1 hc f hf⟩

/-- A table of the write class whose rows agree stores `v` of the state before, and faults as that bus write does. -/
theorem MemClass.stores {forms : List MemForm} {v : State → Byte} {k : Touches}
    (c : MemClass forms (fun m s => writeInstr m (v s) s) k) (ha : ∀ f ∈ forms, MemRow MemOperand.writeCycles f)
    (s : State) : ∀ f ∈ forms, f.Stores (v s) s := by
  intro f hf
  have a := ha f hf
  have hx : exec f.instr s = writeInstr f.operand (v s) s := congrFun (c.meaning f hf) s
  refine ⟨encodes_of_encode a.encoded, fun hok => ?_, fun hfault => ?_⟩
  · obtain ⟨t, ht⟩ := write_ok_of_storeFaults { s with extraCycles := 0 } hok
    exact ⟨t, ht, by rw [hx, writeInstr_of_write_ok ht, a.length, a.cycles]⟩
  · exact hx.trans (writeInstr_of_write_error (write_error_of_storeFaults _ hfault))

/-! ### Implied instructions -/

/-- A one-byte instruction that does `e` does the rule's `effect` when the two agree, PC and the counts apart (R192). -/
theorem implied_of_impliedInstr {i : Instr} {op : Byte} {n : Nat} {effect : State → State} (e : State → State)
    (he : encode i = [op]) (hx : exec i = impliedInstr n e) (hm : ∀ s, finishInstr n (e (startInstr 1 s)) =
      { effect s with pc := s.pc + 1, extraCycles := 0, cycles := n }) : Implied i op n effect :=
  ⟨encodes_of_encode he, fun s => (congrFun hx s).trans (congrArg Host.Outcome.next (hm s))⟩

/-! ### The obligations -/

theorem ldaForms_readRow (b l h : Byte) : ∀ f ∈ ldaForms b l h, ReadRow f :=
  readRow_of_map (by simp [ldaForms, encode]) rfl rfl rfl

theorem ldxForms_readRow (b l h : Byte) : ∀ f ∈ ldxForms b l h, ReadRow f :=
  readRow_of_map (by simp [ldxForms, encode]) rfl rfl rfl

theorem ldyForms_readRow (b l h : Byte) : ∀ f ∈ ldyForms b l h, ReadRow f :=
  readRow_of_map (by simp [ldyForms, encode]) rfl rfl rfl

/-- Settles O9: each table is a load on its operands, and its rows agree with the model's encoder and counts. -/
theorem loadsSetRegisterAndNZ : Obligations.LoadsSetRegisterAndNZ :=
  ⟨ldaForms_readClass.rule ldaForms_readRow fun _ _ _ _ _ _ _ => rfl,
    ldxForms_readClass.rule ldxForms_readRow fun _ _ _ _ _ _ _ => rfl,
    ldyForms_readClass.rule ldyForms_readRow fun _ _ _ _ _ _ _ => rfl⟩

theorem staForms_memRow (b l h : Byte) : ∀ f ∈ staForms b l h, MemRow MemOperand.writeCycles f :=
  memRow_of_map (by simp [staForms, encode]) rfl rfl

theorem stxForms_memRow (b l h : Byte) : ∀ f ∈ stxForms b l h, MemRow MemOperand.writeCycles f :=
  memRow_of_map (by simp [stxForms, encode]) rfl rfl

theorem styForms_memRow (b l h : Byte) : ∀ f ∈ styForms b l h, MemRow MemOperand.writeCycles f :=
  memRow_of_map (by simp [styForms, encode]) rfl rfl

/-- Settles O10: each table is the write class with its register, and its rows agree with the model's encoder and counts. -/
theorem storesWriteTheRegister : Obligations.StoresWriteTheRegister :=
  ⟨fun b l h => (staForms_memClass b l h).stores (staForms_memRow b l h),
    fun b l h => (stxForms_memClass b l h).stores (stxForms_memRow b l h),
    fun b l h => (styForms_memClass b l h).stores (styForms_memRow b l h)⟩

/-- Settles O11: each transfer is a load of a register, or for TXS a write of SP, and the flags of `setNZ` are those of `nz`. -/
theorem transfersCopyRegisters : Obligations.TransfersCopyRegisters :=
  ⟨implied_of_impliedInstr (fun s => loadX s.a s) rfl rfl fun _ => rfl,
    implied_of_impliedInstr (fun s => loadY s.a s) rfl rfl fun _ => rfl,
    implied_of_impliedInstr (fun s => loadX s.sp s) rfl rfl fun _ => rfl,
    implied_of_impliedInstr (fun s => loadA s.x s) rfl rfl fun _ => rfl,
    implied_of_impliedInstr (fun s => s.setSp s.x) rfl rfl fun _ => rfl,
    implied_of_impliedInstr (fun s => loadA s.y s) rfl rfl fun _ => rfl⟩

end Sys2Proof.Machine
end

section
/-! Arithmetic and logic (O13 to O20, O37): the sum's flags on numbers, the rule of the read-modify-write class, and that no
effect of the read class looks at the flag D. -/

namespace Sys2Proof.Machine

open Claims

variable {s t : State}

/-! ### The sum and its flags -/

/-- The rule's sum and flags are the model's (R240). -/
theorem added_eq (p : Flags) (a m : Byte) : added p a m = (adcResult a m p.c, p.adc a m) := by
  have hsum : a.toNat + m.toNat + (if p.c then 1 else 0) = adcSum a m p.c := by
    cases p.c <;> rfl
  have hr : BitVec.ofNat 8 (adcSum a m p.c % 256) = adcResult a m p.c := BitVec.eq_of_toNat_eq (by simp [adcResult])
  simp only [added, hsum, hr, ne_eq, decide_not]
  rfl

theorem and_signBit_ne_zero_iff (x : Byte) : (x &&& 0x80#8) ≠ 0#8 ↔ x.msb = true := by
  revert x
  decide

/-- The sum's sign differs from both operands' exactly when the signed sum leaves a byte's range (R255). -/
theorem adc_v (p : Flags) (a m : Byte) : (p.adc a m).v = decide
    (a.toInt + m.toInt + p.c.toNat < -128 ∨ 127 < a.toInt + m.toInt + p.c.toNat) := by
  have hv : (p.adc a m).v = decide (a.msb ≠ (adcResult a m p.c).msb ∧ m.msb ≠ (adcResult a m p.c).msb) := by
    have h := and_signBit_ne_zero_iff ((a ^^^ adcResult a m p.c) &&& (m ^^^ adcResult a m p.c))
    rw [Bool.eq_iff_iff, decide_eq_true_iff]
    simpa [Flags.adc] using h
  rw [hv, decide_eq_decide]
  have hr := toNat_adcResult a m p.c
  have hc := Bool.toNat_le p.c
  have ha := a.isLt
  have hm := m.isLt
  simp only [BitVec.msb_eq_decide, BitVec.toInt_eq_toNat_cond, hr, decide_eq_decide, ne_eq]
  omega

/-- C is the carry out of the unsigned sum (R257). -/
theorem adc_c (p : Flags) (a m : Byte) : (p.adc a m).c = decide (256 ≤ a.toNat + m.toNat + p.c.toNat) := rfl

/-- SBC's operand `M xor 0xFF` as an unsigned number (R241). -/
theorem toNat_complement (m : Byte) : (m ^^^ 0xFF).toNat = 255 - m.toNat :=
  (congrArg BitVec.toNat BitVec.xor_allOnes).trans BitVec.toNat_not

/-- SBC's operand `M xor 0xFF` as a signed number (R241). -/
theorem toInt_complement (m : Byte) : (m ^^^ 0xFF).toInt = -1 - m.toInt := by
  have hm := m.isLt
  simp only [BitVec.toInt_eq_toNat_cond, toNat_complement]
  omega

/-! ### What a rule of the read class says of a next state -/

/-- An operand that cannot be read is in memory, at an unmapped address (R115). -/
theorem unmapped_of_mapped_eq_false {o : Operand} (h : mapped o s = false) :
    ∃ m, o = .mem m ∧ unmapped (m.ea s) = true := by
  cases o with
  | imm b => cases h
  | mem m => exact ⟨m, rfl, by simpa [mapped] using h⟩

/-- When a form of a table answers a next state, that is its rule's effect, whatever the read and the counts made of the rest. -/
theorem next_of_readRule {forms : Byte → Byte → Byte → List ReadForm} {effect : State → Byte → State → State} {b l h : Byte}
    {f : ReadForm} (hr : ReadRule forms effect) (hf : f ∈ forms b l h) (hx : exec f.instr s = .next t) :
    ∃ u, t = effect s (operandRead f.operand s).1 u := by
  obtain ⟨-, hnext, hfault⟩ := hr b l h s f hf
  obtain hm | hm := Bool.eq_false_or_eq_true (mapped f.operand s)
  · rw [hnext hm] at hx
    exact ⟨_, (Host.Outcome.next.inj hx).symm⟩
  · obtain ⟨m, ho, hu⟩ := unmapped_of_mapped_eq_false hm
    rw [hfault m ho hu] at hx
    cases hx

/-! ### The read class does not look at D -/

/-- The machine with the flag D set to `d`. -/
def State.withD (s : State) (d : Bool) : State := s.setP { s.p with d := d }

theorem ea_setP (m : MemOperand) (p : Flags) (s : State) : m.ea (s.setP p) = m.ea s := by
  cases m <;> rfl

/-- The one read of an operand does not look at the flags. -/
theorem operandRead_setP (o : Operand) (p : Flags) (s : State) :
    operandRead o (s.setP p) = ((operandRead o s).1, (operandRead o s).2.setP p) := by
  cases o with
  | imm b => rfl
  | mem m =>
    simp only [operandRead, ea_setP]
    exact busRead_setP (m.ea s) p s

theorem mapped_setP (o : Operand) (p : Flags) (s : State) : mapped o (s.setP p) = mapped o s := by
  cases o with
  | imm b => rfl
  | mem m => simp only [mapped, ea_setP]

theorem penalty_setP (o : Operand) (p : Flags) (s : State) : o.penalty (s.setP p) = o.penalty s := by
  cases o with
  | imm b => rfl
  | mem m => cases m <;> rfl

theorem readEffect_withD {e : Byte → State → State} (he : ReadEffect e) (m : Byte) (d : Bool) (s : State) :
    e m (s.withD d) = (e m s).withD d := by
  cases he <;> rfl

/-- With another D, a read-class instruction does the same and leaves that D (R256). -/
theorem readInstr_withD {e : Byte → State → State} (he : ReadEffect e) (o : Operand) (d : Bool) (s : State) :
    readInstr o e (s.withD d) = mapNext (·.withD d) (readInstr o e s) := by
  obtain hm | hm := Bool.eq_false_or_eq_true (mapped o s)
  · obtain ⟨u, c, n, hread, -⟩ := operandRead_changes o s
    rw [readInstr_of_mapped e hm, State.withD, readInstr_of_mapped e ((mapped_setP o _ s).trans hm), operandRead_setP,
      penalty_setP, hread]
    exact congrArg (fun q => Host.Outcome.next (finishInstr _ q)) (readEffect_withD he _ d { s with
      ppu := u, ctl := c, draws := n, pc := s.pc + BitVec.ofNat 16 o.length, extraCycles := 0 })
  · obtain ⟨m, rfl, hu⟩ := unmapped_of_mapped_eq_false hm
    rw [readInstr_fault s m e hu, State.withD, readInstr_fault _ m e ((congrArg unmapped (ea_setP m _ s)).trans hu), ea_setP]
    rfl

theorem ReadClass.withD {forms : Byte → Byte → Byte → List ReadForm} {e : Byte → State → State} {k : Touches} {b l h : Byte}
    {f : ReadForm} (c : ReadClass forms e k) (hf : f ∈ forms b l h) (d : Bool) (s : State) :
    exec f.instr (s.withD d) = mapNext (·.withD d) (exec f.instr s) := by
  rw [c.meaning b l h f hf]
  exact readInstr_withD c.effect f.operand d s

/-! ### The read-modify-write class -/

variable {m : MemOperand} {op : Flags → Byte → RmwResult}

/-- A read-modify-write instruction whose accesses do not fault is its read and its write, the flags, PC and the count apart
(R205). -/
theorem rmwInstr_completes (hu : unmapped (m.ea s) = false)
    (hs : storeFaults (m.ea s) (op s.p (busRead (m.ea s) s).1).value = false) :
    ∃ t, write (m.ea s) (op s.p (busRead (m.ea s) s).1).value { (busRead (m.ea s) s).2 with extraCycles := 0 } = .ok t ∧
      rmwInstr m op s = .next { t with
        p := (op s.p (busRead (m.ea s) s).1).flags, pc := s.pc + BitVec.ofNat 16 m.length
        cycles := m.rmwCycles + t.extraCycles } := by
  obtain ⟨t, ht⟩ := write_ok_of_storeFaults { (busRead (m.ea s) s).2 with extraCycles := 0 } hs
  have hw := write_setPc { (busRead (m.ea s) s).2 with extraCycles := 0 } (m.ea s)
    (op s.p (busRead (m.ea s) s).1).value (s.pc + BitVec.ofNat 16 m.length)
  rw [ht] at hw
  rw [rmwInstr_eq s m op hu]
  exact ⟨t, ht, hw ▸ rfl⟩

/-- A mapped store faults for a DMA alone, which reaches 0x4018 first; so does the instruction (R115). -/
theorem rmwInstr_of_storeFaults (hu : unmapped (m.ea s) = false)
    (h : storeFaults (m.ea s) (op s.p (busRead (m.ea s) s).1).value = true) :
    rmwInstr m op s = .fault (.unmappedAddress 0x4018) := by
  rw [rmwInstr_eq s m op hu, write_error_of_storeFaults _ h, hu]
  rfl

/-- A table of the read-modify-write class whose rows agree follows its rule when its operation is the rule's. -/
theorem MemClass.modifies {forms : List MemForm} {k : Touches} {rule : Flags → Byte → Byte × Flags}
    (c : MemClass forms (rmwInstr · op) k) (ha : ∀ f ∈ forms, MemRow MemOperand.rmwCycles f)
    (hop : ∀ p v, rule p v = ((op p v).value, (op p v).flags)) (s : State) : ∀ f ∈ forms, f.Modifies rule s := by
  intro f hf
  have a := ha f hf
  have hx : exec f.instr s = rmwInstr f.operand op s := congrFun (c.meaning f hf) s
  simp only [MemForm.Modifies, hop]
  refine ⟨encodes_of_encode a.encoded, fun hu hs => ?_, fun hu => hx.trans (rmwInstr_fault s f.operand op hu),
    fun hdma => ?_⟩
  · obtain ⟨t, hw, ht⟩ := rmwInstr_completes hu hs
    exact ⟨t, hw, by rw [hx, ht, a.length, a.cycles]⟩
  have hu : unmapped (f.operand.ea s) = false := hdma ▸ rfl
  have hs (v : Byte) : storeFaults (f.operand.ea s) v = (v == 0x40#8) := hdma ▸ rfl
  split_ifs with hv
  · exact hx.trans (rmwInstr_of_storeFaults hu ((hs _).trans (beq_iff_eq.2 hv)))
  · obtain ⟨t, -, ht⟩ := rmwInstr_completes hu ((hs _).trans (beq_eq_false_iff_ne.2 hv))
    exact ⟨_, hx.trans ht⟩

/-! ### The obligations -/

/-- The model's ADC means the rule's sum of any byte. -/
theorem adcEffect_means : EffectMeans adcEffect fun s m t =>
    { t with a := (added s.p s.a m).1, p := (added s.p s.a m).2 } := by
  intro s u c d pc m n
  simp only [added_eq]
  rfl

/-- Settles O13: the table is ADC's effect on its operands, whose sum and flags are the rule's. -/
theorem adcAddsWithCarry : Obligations.AdcAddsWithCarry :=
  adcForms_readClass.rule (fun _ _ _ => readRow_of_map (by simp [adcForms, encode]) rfl rfl rfl) adcEffect_means

/-- Settles O14: SBC's effect is ADC's of the complement. -/
theorem sbcAddsTheComplement : Obligations.SbcAddsTheComplement :=
  sbcForms_readClass.rule (fun _ _ _ => readRow_of_map (by simp [sbcForms, encode]) rfl rfl rfl)
    fun s u c d pc m => adcEffect_means s u c d pc (m ^^^ 0xFF)

/-- Settles O15: a next state has the sum of O13 or O14, whose flags are `adc_c` and `adc_v`; for SBC, those of the complement
`255 - M`, which is `-1 - M` signed. -/
theorem carryAndOverflowMeaning : Obligations.CarryAndOverflowMeaning := by
  refine fun b l h s t => ⟨fun f hf hx => ?_, fun f hf hx => ?_⟩
  · obtain ⟨u, rfl⟩ := next_of_readRule adcAddsWithCarry hf hx
    have hc : (if s.p.c then 1 else 0 : Nat) = s.p.c.toNat := by cases s.p.c <;> rfl
    simp only [added_eq, hc]
    exact ⟨toNat_adcResult _ _ _, adc_c _ _ _, adc_v _ _ _⟩
  · obtain ⟨u, rfl⟩ := next_of_readRule sbcAddsTheComplement hf hx
    generalize (operandRead f.operand s).1 = m
    have hm := m.isLt
    have hc : (if s.p.c then 0 else 1 : Nat) = 1 - s.p.c.toNat := by cases s.p.c <;> rfl
    have hc' := Bool.toNat_le s.p.c
    simp only [added_eq, hc, toNat_adcResult, adc_c, adc_v, toNat_complement, toInt_complement, decide_eq_decide]
    omega

/-- Settles O16: each table loads its bitwise result. -/
theorem logicCombinesWithA : Obligations.LogicCombinesWithA :=
  ⟨andForms_readClass.rule (fun _ _ _ => readRow_of_map (by simp [andForms, encode]) rfl rfl rfl) fun _ _ _ _ _ _ _ => rfl,
    oraForms_readClass.rule (fun _ _ _ => readRow_of_map (by simp [oraForms, encode]) rfl rfl rfl) fun _ _ _ _ _ _ _ => rfl,
    eorForms_readClass.rule (fun _ _ _ => readRow_of_map (by simp [eorForms, encode]) rfl rfl rfl) fun _ _ _ _ _ _ _ => rfl⟩

/-- Settles O17: each table compares its register with its operand. -/
theorem comparesSetNZC : Obligations.ComparesSetNZC :=
  ⟨cmpForms_readClass.rule (fun _ _ _ => readRow_of_map (by simp [cmpForms, encode]) rfl rfl rfl) fun _ _ _ _ _ _ _ => rfl,
    cpxForms_readClass.rule (fun _ _ _ => readRow_of_map (by simp [cpxForms, encode]) rfl rfl rfl) fun _ _ _ _ _ _ _ => rfl,
    cpyForms_readClass.rule (fun _ _ _ => readRow_of_map (by simp [cpyForms, encode]) rfl rfl rfl) fun _ _ _ _ _ _ _ => rfl⟩

/-- Settles O18: the table is the model's bit test on its operands. -/
theorem bitTestsMemory : Obligations.BitTestsMemory :=
  bitForms_readClass.rule (fun _ _ _ => readRow_of_map (by simp [bitForms, encode]) rfl rfl rfl) fun _ _ _ _ _ _ _ => rfl

/-- INC's result is the number plus 1 modulo 256 (R249). -/
theorem ofNat_toNat_add_one (v : Byte) : BitVec.ofNat 8 ((v.toNat + 1) % 256) = v + 1 :=
  BitVec.eq_of_toNat_eq (by simp)

/-- DEC's result is the number plus 255 modulo 256 (R250). -/
theorem ofNat_toNat_add_255 (v : Byte) : BitVec.ofNat 8 ((v.toNat + 255) % 256) = v - 1 :=
  BitVec.eq_of_toNat_eq (by simp [BitVec.toNat_sub, Nat.add_comm])

/-- Settles O19: each table is the read-modify-write class with its operation, whose result is the rule's number. -/
theorem incDecMemory : Obligations.IncDecMemory := fun b l h s =>
  ⟨(incForms_memClass b l h).modifies (memRow_of_map (by simp [incForms, encode]) rfl rfl)
      (fun p v => by rw [ofNat_toNat_add_one]; rfl) s,
    (decForms_memClass b l h).modifies (memRow_of_map (by simp [decForms, encode]) rfl rfl)
      (fun p v => by rw [ofNat_toNat_add_255]; rfl) s⟩

/-- Settles O37: both tables are of the read class, which does not look at D. -/
theorem decimalFlagIsIgnored : Obligations.DecimalFlagIsIgnored := by
  intro b l h s d
  rw [List.forall_mem_append]
  exact ⟨fun _ hf => adcForms_readClass.withD hf d s, fun _ hf => sbcForms_readClass.withD hf d s⟩

/-- Settles O20: each is a load of its register, counted up or down, and the flags of `setNZ` are those of `nz`. -/
theorem incDecRegisters : Obligations.IncDecRegisters :=
  ⟨implied_of_impliedInstr (fun s => loadX (s.x + 1) s) rfl rfl fun _ => rfl,
    implied_of_impliedInstr (fun s => loadY (s.y + 1) s) rfl rfl fun _ => rfl,
    implied_of_impliedInstr (fun s => loadX (s.x - 1) s) rfl rfl fun _ => rfl,
    implied_of_impliedInstr (fun s => loadY (s.y - 1) s) rfl rfl fun _ => rfl⟩

end Sys2Proof.Machine
end

section
/-! Shifts and rotates (O21): the bit shifted out and the result on numbers, and the rule of the accumulator form. -/

namespace Sys2Proof.Machine

open Claims

/-! ### The bit shifted out, on numbers -/

/-- The bit ASL and ROL shift out (R270, R272). -/
theorem decide_128_le_toNat (v : Byte) : decide (128 ≤ v.toNat) = v.getLsbD 7 := (BitVec.msb_eq_decide v).symm

/-- The bit LSR and ROR shift out (R271, R273). -/
theorem decide_toNat_mod_two (v : Byte) : decide (v.toNat % 2 = 1) = v.getLsbD 0 := (Nat.testBit_zero v.toNat).symm

/-! ### The result, on numbers -/

theorem ofNat_toNat_mul_two (v : Byte) : BitVec.ofNat 8 (v.toNat * 2 % 256) = v <<< 1 :=
  BitVec.eq_of_toNat_eq (by simp [Nat.shiftLeft_eq])

theorem ofNat_toNat_div_two (v : Byte) : BitVec.ofNat 8 (v.toNat / 2) = v >>> 1 := by
  rw [← Nat.shiftRight_one, ← BitVec.toNat_ushiftRight, BitVec.ofNat_toNat, BitVec.setWidth_eq]

/-- A bit comes into a place that is 0 by addition: nothing carries. -/
theorem or_bitAt_eq_add {x : Byte} {k : Nat} (h : x.getLsbD k = false) (c : Bool) : x ||| bitAt c k = x + bitAt c k := by
  refine (BitVec.add_eq_or_of_and_eq_zero x (bitAt c k) ?_).symm
  cases c with
  | false => exact BitVec.and_zero
  | true => exact (BitVec.and_twoPow x k).trans (by rw [h]; rfl)

/-- ROL's result: bit 0, which the shift left empty, takes the old C (R272). -/
theorem ofNat_toNat_mul_two_add_carry (v : Byte) (c : Bool) :
    BitVec.ofNat 8 (v.toNat * 2 % 256 + if c then 1 else 0) = v <<< 1 ||| bitAt c 0 := by
  have hc : BitVec.ofNat 8 (if c then 1 else 0) = bitAt c 0 := by cases c <;> rfl
  have hbit : (v <<< 1).getLsbD 0 = false := by simp
  rw [BitVec.ofNat_add, ofNat_toNat_mul_two, hc, or_bitAt_eq_add hbit]

/-- ROR's result: bit 7, which the shift left empty, takes the old C (R273). -/
theorem ofNat_toNat_div_two_add_carry (v : Byte) (c : Bool) :
    BitVec.ofNat 8 (v.toNat / 2 + if c then 128 else 0) = v >>> 1 ||| bitAt c 7 := by
  have hc : BitVec.ofNat 8 (if c then 128 else 0) = bitAt c 7 := by cases c <;> rfl
  have hbit : (v >>> 1).getLsbD 7 = false := by simp
  rw [BitVec.ofNat_add, ofNat_toNat_div_two, hc, or_bitAt_eq_add hbit]

/-! ### The operations as the rules state them -/

theorem shiftedTo_asl (p : Flags) (v : Byte) :
    shiftedTo p (decide (128 ≤ v.toNat)) (BitVec.ofNat 8 (v.toNat * 2 % 256)) = ((aslOp p v).value, (aslOp p v).flags) := by
  rw [decide_128_le_toNat, ofNat_toNat_mul_two]
  rfl

theorem shiftedTo_lsr (p : Flags) (v : Byte) :
    shiftedTo p (decide (v.toNat % 2 = 1)) (BitVec.ofNat 8 (v.toNat / 2)) = ((lsrOp p v).value, (lsrOp p v).flags) := by
  rw [decide_toNat_mod_two, ofNat_toNat_div_two]
  rfl

theorem shiftedTo_rol (p : Flags) (v : Byte) :
    shiftedTo p (decide (128 ≤ v.toNat)) (BitVec.ofNat 8 (v.toNat * 2 % 256 + if p.c then 1 else 0)) =
      ((rolOp p v).value, (rolOp p v).flags) := by
  rw [decide_128_le_toNat, ofNat_toNat_mul_two_add_carry]
  rfl

theorem shiftedTo_ror (p : Flags) (v : Byte) :
    shiftedTo p (decide (v.toNat % 2 = 1)) (BitVec.ofNat 8 (v.toNat / 2 + if p.c then 128 else 0)) =
      ((rorOp p v).value, (rorOp p v).flags) := by
  rw [decide_toNat_mod_two, ofNat_toNat_div_two_add_carry]
  rfl

/-! ### The obligation -/

/-- An accumulator instruction follows a rule, in every state, when its operation is the rule's (R192). -/
theorem modifiesA_of_accInstr {i : Instr} {opcode : Byte} {op : Flags → Byte → RmwResult}
    {rule : Flags → Byte → Byte × Flags} (he : encode i = [opcode]) (hx : exec i = accInstr op)
    (hop : ∀ p v, rule p v = ((op p v).value, (op p v).flags)) (s : State) : ModifiesA i opcode rule s := by
  refine ⟨encodes_of_encode he, ?_⟩
  rw [hx, accInstr_eq, hop]

/-- Settles O21: the accumulator form and each table's class do one operation, which on numbers is the rule's. -/
theorem shiftsAndRotates : Obligations.ShiftsAndRotates := fun b l h s =>
  ⟨⟨modifiesA_of_accInstr rfl rfl shiftedTo_asl s,
      (aslForms_memClass b l h).modifies (memRow_of_map (by simp [aslForms, encode]) rfl rfl) shiftedTo_asl s⟩,
    ⟨modifiesA_of_accInstr rfl rfl shiftedTo_lsr s,
      (lsrForms_memClass b l h).modifies (memRow_of_map (by simp [lsrForms, encode]) rfl rfl) shiftedTo_lsr s⟩,
    ⟨modifiesA_of_accInstr rfl rfl shiftedTo_rol s,
      (rolForms_memClass b l h).modifies (memRow_of_map (by simp [rolForms, encode]) rfl rfl) shiftedTo_rol s⟩,
    ⟨modifiesA_of_accInstr rfl rfl shiftedTo_ror s,
      (rorForms_memClass b l h).modifies (memRow_of_map (by simp [rorForms, encode]) rfl rfl) shiftedTo_ror s⟩⟩

end Sys2Proof.Machine
end

section
/-! Subroutines (O24), BRK (O25) and RTI (O26): the exact next state, on the stack places and the vector. -/

namespace Sys2Proof.Machine

open Claims

variable (s : State)

/-! ### BRK -/

/-- The word BRK and IRQ go to, by its two places (R145). -/
theorem vectorAt_irqVector : s.vectorAt irqVector = vectorWord s 0xFFFE 0xFFFF := rfl

variable {s}

/-- BRK under the vector policy is the interrupt's entry, with PC past the padding byte and bit 4 pushed as 1 (R292). -/
theorem exec_brk_of_vector (h : s.params.brkPolicy = .vector) : exec .brk s = .next { s with
    ram := interruptFrame s (s.pc + 2) true, sp := s.sp - 3, p := { s.p with i := true }
    pc := vectorWord s 0xFFFE 0xFFFF, extraCycles := 0, cycles := 7 } := by
  have hp : (startInstr 2 s).params.brkPolicy = .vector := h
  simp only [exec, execBrk, hp, takeInterrupt_eq, vectorAt_irqVector]
  rfl

/-- BRK under the halt policy ends the run, with nothing pushed (R292). -/
theorem exec_brk_of_halt (h : s.params.brkPolicy = .halt) :
    exec .brk s = .next { s with status := .halted, pc := s.pc + 2, extraCycles := 0, cycles := 7 } := by
  have hp : (startInstr 2 s).params.brkPolicy = .halt := h
  simp only [exec, execBrk, hp]
  rfl

/-! ### The obligations -/

/-- Settles O24: JSR and RTS on the stack places are `exec_jsr` and `exec_rts`. -/
theorem callAndReturn : Obligations.CallAndReturn := by
  intro l h s
  have encode_jsr : encode (.jsr (hiLo h l)) = [0x20, l, h] := by simp [encode]
  exact ⟨⟨encodes_of_encode encode_jsr, exec_jsr s _⟩, encodes_of_encode rfl, exec_rts s⟩

/-- Settles O25: by the policy, the interrupt's entry or the end of the run. -/
theorem brkInterruptsOrHalts : Obligations.BrkInterruptsOrHalts :=
  ⟨encodes_of_encode rfl, fun _ => ⟨exec_brk_of_vector, exec_brk_of_halt⟩⟩

/-- Settles O26: RTI on the stack places is `exec_rti`, and the seven flags are what `Flags.unpack` takes from a byte. -/
theorem rtiRestoresStatusAndPc : Obligations.RtiRestoresStatusAndPc :=
  ⟨encodes_of_encode rfl, exec_rti⟩

end Sys2Proof.Machine
end

section
/-! The stack instructions (O27), with the packed status byte as a number, and the flag instructions and NOP (O29). -/

namespace Sys2Proof.Machine

open Claims

/-! ### The packed status byte on numbers -/

theorem ite_eq_mul_toNat (c : Bool) (w : Nat) : (if c then w else 0) = w * c.toNat := by
  cases c <;> simp

/-- A byte is the sum of its bits' weights. -/
theorem byte_toNat_eq_sum_bits (b : Byte) : b.toNat =
    (if b.getLsbD 7 then 128 else 0) + (if b.getLsbD 6 then 64 else 0) + (if b.getLsbD 5 then 32 else 0) +
      (if b.getLsbD 4 then 16 else 0) + (if b.getLsbD 3 then 8 else 0) + (if b.getLsbD 2 then 4 else 0) +
      (if b.getLsbD 1 then 2 else 0) + (if b.getLsbD 0 then 1 else 0) := by
  have hbits : b.toNat = Nat.ofBits fun i : Fin 8 => b.getLsbD i :=
    ((Nat.ofBits_testBit b.toNat 8).trans (Nat.mod_eq_of_lt b.isLt)).symm
  simp only [hbits, Nat.ofBits_succ, Nat.ofBits_zero, Function.comp_apply, Fin.val_succ, Fin.val_zero, Nat.reduceAdd,
    ite_eq_mul_toNat]
  omega

/-- The packed status byte: each flag's weight, bit 5 always, bit 4 as the pusher says (R37). -/
theorem toNat_pack (p : Flags) (bflag : Bool) : (p.pack bflag).toNat =
    (if p.n then 128 else 0) + (if p.v then 64 else 0) + 32 + (if bflag then 16 else 0) + (if p.d then 8 else 0) +
      (if p.i then 4 else 0) + (if p.z then 2 else 0) + (if p.c then 1 else 0) := by
  obtain ⟨hn, hv, h5, hb, hd, hi, hz, hc⟩ := pack_getLsbD p bflag
  rw [byte_toNat_eq_sum_bits, hn, hv, h5, hb, hd, hi, hz, hc, if_pos rfl]

/-! ### The flag instructions -/

/-- A one-byte instruction that only sets the flags to `f` of the old ones (R304 to R310). -/
theorem implied_of_setP {i : Instr} {op : Byte} (f : Flags → Flags) (he : encode i = [op])
    (hx : exec i = impliedInstr 2 fun s => s.setP (f s.p)) : Implied i op 2 fun s => { s with p := f s.p } :=
  implied_of_impliedInstr (fun s => s.setP (f s.p)) he hx fun _ => rfl

/-! ### The obligations -/

/-- Settles O27: on stack places the four are `exec_pha`, `exec_php`, `exec_pla` and `exec_plp`, and the packed byte
is `toNat_pack`. -/
theorem pushesAndPulls : Obligations.PushesAndPulls :=
  ⟨⟨encodes_of_encode rfl, exec_pha⟩, ⟨encodes_of_encode rfl, exec_php⟩, ⟨encodes_of_encode rfl, exec_pla⟩,
    ⟨encodes_of_encode rfl, exec_plp⟩, toNat_pack⟩

/-- Settles O29: the seven write one flag and NOP writes nothing. -/
theorem flagInstructionsAndNop : Obligations.FlagInstructionsAndNop :=
  ⟨implied_of_setP (fun p => { p with c := false }) rfl rfl, implied_of_setP (fun p => { p with d := false }) rfl rfl,
    implied_of_setP (fun p => { p with i := false }) rfl rfl, implied_of_setP (fun p => { p with v := false }) rfl rfl,
    implied_of_setP (fun p => { p with c := true }) rfl rfl, implied_of_setP (fun p => { p with d := true }) rfl rfl,
    implied_of_setP (fun p => { p with i := true }) rfl rfl, implied_of_impliedInstr (fun s => s) rfl rfl fun _ => rfl⟩

end Sys2Proof.Machine
end

section
/-! The reasons a machine stops (O7): every shape of instruction completes or faults at an unmapped address, and so does the
fetch, but for an undefined opcode. -/

namespace Sys2Proof.Machine

/-- An outcome that is a next state or the fault of an access to 0x4018 to 0x401F (R321). -/
def CompletesOrUnmapped (o : Host.Outcome State Fault Refusal) : Prop :=
  (∃ t, o = .next t) ∨ ∃ a, unmapped a = true ∧ o = .fault (.unmappedAddress a)

theorem CompletesOrUnmapped.next (t : State) : CompletesOrUnmapped (.next t) := .inl ⟨t, rfl⟩

theorem CompletesOrUnmapped.fault {a : Addr} (h : unmapped a = true) :
    CompletesOrUnmapped (.fault (.unmappedAddress a)) := .inr ⟨a, h, rfl⟩

variable {s : State}

/-- A write faults at an unmapped address only, whichever address it is given (R113, R115). -/
theorem write_error_unmapped {a : Addr} {v : Byte} {r : Fault} (h : write a v s = .error r) :
    ∃ b, unmapped b = true ∧ r = .unmappedAddress b := by
  cases hf : storeFaults a v with
  | false =>
    obtain ⟨t, ht⟩ := write_ok_of_storeFaults s hf
    rw [ht] at h
    cases h
  | true =>
    rw [write_error_of_storeFaults s hf] at h
    refine ⟨_, ?_, (Except.error.inj h).symm⟩
    split_ifs with hu
    · exact hu
    · rfl

/-! ### The instruction classes -/

theorem readInstr_completesOrUnmapped (o : Operand) (e : Byte → State → State) (s : State) :
    CompletesOrUnmapped (readInstr o e s) := by
  cases o with
  | imm b => exact .next _
  | mem m =>
    cases hu : unmapped (m.ea s) with
    | true => rw [readInstr_fault s m e hu]; exact .fault hu
    | false => rw [readInstr_mem s m e hu]; exact .next _

theorem writeInstr_completesOrUnmapped (m : MemOperand) (v : Byte) (s : State) :
    CompletesOrUnmapped (writeInstr m v s) := by
  rw [writeInstr_eq]
  split
  · rename_i r hw
    obtain ⟨b, hb, rfl⟩ := write_error_unmapped hw
    exact .fault hb
  · exact .next _

theorem rmwInstr_completesOrUnmapped (m : MemOperand) (op : Flags → Byte → RmwResult) (s : State) :
    CompletesOrUnmapped (rmwInstr m op s) := by
  cases hu : unmapped (m.ea s) with
  | true => rw [rmwInstr_fault s m op hu]; exact .fault hu
  | false =>
    rw [rmwInstr_eq s m op hu]
    split
    · rename_i r hw
      obtain ⟨b, hb, rfl⟩ := write_error_unmapped hw
      exact .fault hb
    · exact .next _

theorem branchInstr_completesOrUnmapped (c : Bool) (off : Byte) (s : State) :
    CompletesOrUnmapped (branchInstr c off s) := by
  rw [branchInstr_eq]
  exact .next _

theorem execJmpInd_completesOrUnmapped (a : Addr) (s : State) : CompletesOrUnmapped (execJmpInd a s) := by
  simp only [execJmpInd]
  split
  · rename_i hlo
    obtain ⟨hu, rfl⟩ := (read_error_iff _ _ _).1 hlo
    exact .fault hu
  · split
    · rename_i hhi
      obtain ⟨hu, rfl⟩ := (read_error_iff _ _ _).1 hhi
      exact .fault hu
    · exact .next _

theorem execBrk_completesOrUnmapped (s : State) : CompletesOrUnmapped (execBrk s) := by
  simp only [execBrk]
  split <;> exact .next _

theorem shape_completesOrUnmapped {f : State → Host.Outcome State Fault Refusal} (hf : Shape f) (s : State) :
    CompletesOrUnmapped (f s) := by
  cases hf with
  | read o _ => exact readInstr_completesOrUnmapped o _ s
  | sta m => exact writeInstr_completesOrUnmapped m _ s
  | stx m => exact writeInstr_completesOrUnmapped m _ s
  | sty m => exact writeInstr_completesOrUnmapped m _ s
  | rmw m _ => exact rmwInstr_completesOrUnmapped m _ s
  | acc _ => exact .next _
  | implied _ _ => exact .next _
  | branch _ off => exact branchInstr_completesOrUnmapped _ off s
  | jmpAbs _ => exact .next _
  | jmpInd a => exact execJmpInd_completesOrUnmapped a s
  | jsr _ => exact .next _
  | brk => exact execBrk_completesOrUnmapped s

/-- Every instruction, in every state, completes or faults at an unmapped address; none is refused. -/
theorem exec_completesOrUnmapped (i : Instr) (s : State) : CompletesOrUnmapped (exec i s) :=
  shape_completesOrUnmapped (exec_shape i) s

/-! ### The step -/

/-- A fetch fails by an undefined opcode at PC or by one of its reads (R321, R322). -/
theorem fetch_error {r : Fault} (h : fetch s = .error r) :
    r = .decodeError s.pc ∨ ∃ a, unmapped a = true ∧ r = .unmappedAddress a := by
  have rd : ∀ {a : Addr} {q : State} {e : Fault}, read a q = .error e → ∃ a, unmapped a = true ∧ e = .unmappedAddress a :=
    fun hr => ⟨_, (read_error_iff _ _ _).1 hr⟩
  unfold fetch at h
  split at h
  · rename_i h1
    cases h; exact .inr (rd h1)
  · split at h
    · cases h; exact .inl rfl
    · split at h
      · cases h
      · split at h
        · rename_i h2
          cases h; exact .inr (rd h2)
        · cases h
      · split at h
        · rename_i h2
          cases h; exact .inr (rd h2)
        · split at h
          · rename_i h3
            cases h; exact .inr (rd h3)
          · cases h

/-- A running machine's step answers a next state, the fault of an undefined opcode at PC or that of an unmapped address. -/
theorem step_of_running (hs : s.status = .running) :
    CompletesOrUnmapped (step s) ∨ step s = .fault (.decodeError s.pc) := by
  unfold step
  simp only [hs]
  split
  · exact .inl (.next _)
  · exact .inl (.next _)
  · split
    · rename_i hf
      rcases fetch_error hf with rfl | ⟨a, hu, rfl⟩
      · exact .inr rfl
      · exact .inl (.fault hu)
    · rename_i i s1 _
      rcases exec_completesOrUnmapped i s1 with ⟨t, hx⟩ | ⟨a, hu, hx⟩ <;> rw [hx]
      · exact .inl (.next _)
      · exact .inl (.fault hu)

theorem step_not_refused (s : State) (r : Refusal) : step s ≠ .refused r := by
  cases hs : s.status with
  | running => rcases step_of_running hs with (⟨t, h⟩ | ⟨a, -, h⟩) | h <;> rw [h] <;> exact nofun
  | halted => simp [step, hs]
  | faulted _ => simp [step, hs]

/-- Settles O7: whatever its shape an instruction completes or faults at an unmapped address, so a step's only other fault is
the fetch's. -/
theorem onlyNamedFaultsOccur : Obligations.OnlyNamedFaultsOccur := by
  refine ⟨fun s r hs h => ?_, fun i s r h => ?_, step_not_refused⟩
  · rcases step_of_running hs with (⟨t, h'⟩ | ⟨a, hu, h'⟩) | h' <;> rw [h'] at h <;> cases h
    · exact .inr ⟨a, ((unmapped_iff a).1 hu).1, ((unmapped_iff a).1 hu).2, rfl⟩
    · exact .inl rfl
  · rcases exec_completesOrUnmapped i s with ⟨t, h'⟩ | ⟨a, -, h'⟩ <;> rw [h'] at h <;> cases h

end Sys2Proof.Machine
end

section
/-! The scroll arithmetic (O52): the masked fields of `v` on numbers, and which bits the two copies take from `t`. -/

namespace Sys2Proof.Machine

/-! ### Masks on numbers -/

/-- A field of `w` bits from bit `lo` on, left in its place. -/
theorem toNat_and_field {n lo w : Nat} (v m : BitVec n) (hm : m.toNat = (2 ^ w - 1) * 2 ^ lo) :
    (v &&& m).toNat = v.toNat / 2 ^ lo % 2 ^ w * 2 ^ lo := by
  rw [BitVec.toNat_and, hm]
  apply Nat.eq_of_testBit_eq
  intro i
  rw [Nat.testBit_and, Nat.testBit_mul_two_pow, Nat.testBit_mul_two_pow, Nat.testBit_two_pow_sub_one, Nat.testBit_mod_two_pow,
    Nat.testBit_div_two_pow]
  by_cases h : lo ≤ i
  · rw [Nat.sub_add_cancel h, Bool.and_comm, Bool.and_assoc]
  · simp [h]

/-- Clearing a mask's bits takes them away. -/
theorem toNat_and_not_add {n : Nat} (v m : BitVec n) : (v &&& ~~~m).toNat + (v &&& m).toNat = v.toNat := by
  have hdisjoint : (v &&& ~~~m) &&& (v &&& m) = 0 := by ext i; cases hv : v[i] <;> simp [hv]
  have hjoin : (v &&& ~~~m) ||| (v &&& m) = v := by ext i; cases hv : v[i] <;> simp [hv]
  rw [← BitVec.toNat_add_of_and_eq_zero hdisjoint, BitVec.add_eq_or_of_and_eq_zero _ _ hdisjoint, hjoin]

/-- Flipping a mask's bits. -/
theorem toNat_xor_add {n : Nat} (v m : BitVec n) : (v ^^^ m).toNat + 2 * (v &&& m).toNat = v.toNat + m.toNat := by
  have hdisjoint : (v &&& ~~~m) &&& (m &&& ~~~v) = 0 := by ext i; cases hv : v[i] <;> simp [hv]
  have hjoin : (v &&& ~~~m) ||| (m &&& ~~~v) = v ^^^ m := by ext i; cases hv : v[i] <;> simp [hv]
  have hv := toNat_and_not_add v m
  have hm := toNat_and_not_add m v
  rw [BitVec.and_comm m v] at hm
  rw [← hjoin, ← BitVec.add_eq_or_of_and_eq_zero _ _ hdisjoint, BitVec.toNat_add_of_and_eq_zero hdisjoint]
  omega

variable (v : VAddr)

theorem toNat_and_coarseX : (v &&& 0x001F#15).toNat = v.toNat % 32 := by
  rw [toNat_and_field (lo := 0) (w := 5) v _ rfl]
  omega

theorem toNat_and_coarseY : (v &&& 0x03E0#15).toNat = v.toNat / 32 % 32 * 32 := toNat_and_field (lo := 5) (w := 5) v _ rfl

theorem toNat_and_horizontal : (v &&& 0x0400#15).toNat = v.toNat / 1024 % 2 * 1024 :=
  toNat_and_field (lo := 10) (w := 1) v _ rfl

theorem toNat_and_vertical : (v &&& 0x0800#15).toNat = v.toNat / 2048 % 2 * 2048 :=
  toNat_and_field (lo := 11) (w := 1) v _ rfl

theorem toNat_and_fineY : (v &&& 0x7000#15).toNat = v.toNat / 4096 % 8 * 4096 :=
  toNat_and_field (lo := 12) (w := 3) v _ rfl

/-! ### The steps -/

variable {v}

theorem toNat_incCoarseX_of_lt (h : v.toNat % 32 < 31) : (incCoarseX v).toNat = v.toNat + 1 := by
  have hx : v &&& 0x001F#15 ≠ 0x001F#15 := by
    rw [ne_eq, ← BitVec.toNat_inj, toNat_and_coarseX]
    exact h.ne
  rw [incCoarseX, if_neg hx]
  bv_omega

/-- The step from the last column: coarse X back to 0, the horizontal nametable bit flipped (R375). -/
theorem toNat_incCoarseX_of_eq (h : v.toNat % 32 = 31) :
    (incCoarseX v).toNat + v.toNat / 1024 % 2 * 2048 = v.toNat - 31 + 1024 := by
  have hx : v &&& 0x001F#15 = 0x001F#15 := by
    rw [← BitVec.toNat_inj, toNat_and_coarseX]
    exact h
  have hclear := toNat_and_not_add v 0x001F#15
  have hflip := toNat_xor_add (v &&& ~~~0x001F#15) 0x0400#15
  rw [toNat_and_coarseX] at hclear
  rw [toNat_and_horizontal] at hflip
  have h1024 : (0x0400#15).toNat = 1024 := rfl
  rw [incCoarseX, if_pos hx]
  omega

theorem toNat_incY_of_lt (h : v.toNat / 4096 < 7) : (incY v).toNat = v.toNat + 4096 := by
  have hy : v &&& 0x7000#15 ≠ 0x7000#15 := by
    rw [ne_eq, ← BitVec.toNat_inj, toNat_and_fineY]
    have h7000 : (0x7000#15).toNat = 7 * 4096 := rfl
    omega
  rw [incY, if_pos hy]
  bv_omega

/-- The step from a row of tiles' last line: fine Y back to 0 and coarse Y on, from 29 with the vertical nametable bit
flipped, from 31 without (R376). -/
theorem toNat_incY_of_eq (h : v.toNat / 4096 = 7) : (incY v).toNat =
    if v.toNat / 32 % 32 = 29 then v.toNat % 4096 - 29 * 32 + 2048 - v.toNat / 2048 % 2 * 4096
    else if v.toNat / 32 % 32 = 31 then v.toNat % 4096 - 31 * 32
    else v.toNat % 4096 + 32 := by
  have hy : v &&& 0x7000#15 = 0x7000#15 := by
    rw [← BitVec.toNat_inj, toNat_and_fineY, h]
    rfl
  have hw := toNat_and_not_add v 0x7000#15
  rw [toNat_and_fineY] at hw
  rw [incY, if_neg (not_not_intro hy)]
  dsimp only
  generalize v &&& ~~~0x7000#15 = w at hw ⊢
  have hwv : w.toNat = v.toNat % 4096 := by omega
  have hrow : ∀ k : Nat, k < 32 → (w &&& 0x03E0#15 = BitVec.ofNat 15 (k * 32) ↔ v.toNat / 32 % 32 = k) := by
    intro k hk
    rw [← BitVec.toNat_inj, toNat_and_coarseY, BitVec.toNat_ofNat]
    omega
  have hclear := toNat_and_not_add w 0x03E0#15
  have hflip := toNat_xor_add (w &&& ~~~0x03E0#15) 0x0800#15
  rw [toNat_and_coarseY] at hclear
  rw [toNat_and_vertical] at hflip
  have h2048 : (0x0800#15).toNat = 2048 := rfl
  simp only [hrow 29 (by decide), hrow 31 (by decide)]
  split_ifs
  · omega
  · omega
  · bv_omega

/-! ### The copies -/

/-- A copy takes the bits of its mask from `t` and keeps the others of `v`. -/
theorem getLsbD_copy {n k : Nat} (v t m : BitVec n) (hk : k < n) :
    ((v &&& ~~~m) ||| (t &&& m)).getLsbD k = if m.getLsbD k then t.getLsbD k else v.getLsbD k := by
  rw [BitVec.getLsbD_or, BitVec.getLsbD_and, BitVec.getLsbD_and, BitVec.getLsbD_not, decide_eq_true hk]
  cases m.getLsbD k <;> simp

/-- Settles O52: each step by its two cases on numbers, and the copies by which bits their masks have. -/
theorem scrollArithmetic : Obligations.ScrollArithmetic := by
  refine ⟨fun v => ⟨toNat_incCoarseX_of_lt, fun h => ?_⟩, fun v => ⟨toNat_incY_of_lt, fun h => ?_⟩, fun u k hk => ?_⟩
  · have hx := toNat_incCoarseX_of_eq h
    omega
  · have hy := toNat_incY_of_eq h
    split_ifs at hy ⊢ <;> omega
  · have horizontal : ∀ k < 15, (0x041F#15).getLsbD k = decide (k < 5 ∨ k = 10) := by decide
    have vertical : ∀ k < 15, (0x7BE0#15).getLsbD k = !decide (k < 5 ∨ k = 10) := by decide
    simp only [Ppu.copyHorizontal, Ppu.copyVertical, getLsbD_copy _ _ _ hk, horizontal k hk, vertical k hk,
      decide_eq_true_eq, Bool.not_eq_true', decide_eq_false_iff_not, ite_not, and_self]

end Sys2Proof.Machine
end

section
/-! The pixel (O53): what a tick leaves of the frame, the pixel it puts out, and that pixel on numbers. -/

namespace Sys2Proof.Machine

/-! ### A tick and the frame -/

/-- A pixel depends on the registers, the palette and the pipeline alone. -/
theorem pixel_congr {u w : Ppu} (hm : w.mask = u.mask) (hx : w.x = u.x) (hp : w.palette = u.palette)
    (h : u.SamePipeline w) (x : Nat) : w.pixel x = u.pixel x := by
  unfold Ppu.pixel Ppu.pixelColour Ppu.pixelIndex Ppu.bgShown Ppu.paletteAt
  rw [hm, hx, hp, h.shPatLo, h.shPatHi, h.shAttLo, h.shAttHi]

/-- A visible dot's work sets one pixel, the one that the registers and the pipeline it leaves give (R360, R378). -/
theorem dotWork_frame (c : Cartridge) (u : Ppu) : (u.dotWork c).frame =
    if u.scanline ≤ 239 ∧ 1 ≤ u.dot ∧ u.dot ≤ 256 then
      u.frame.setPixel u.scanline (u.dot - 1) ((u.dotWork c).pixel (u.dot - 1))
    else u.frame := by
  have hk := dotWork_keeps c u
  have hp := dotWork_pipeline c u
  have hz : u.KeepsPicture (if renderingEnabled u then u.backgroundWork c else u) :=
    .ite (backgroundWork_keeps c u) (.refl u)
  have hframe : (u.dotWork c).frame =
      let z := if renderingEnabled u then u.backgroundWork c else u
      (if z.scanline ≤ 239 ∧ 1 ≤ z.dot ∧ z.dot ≤ 256 then z.outputPixel z.scanline (z.dot - 1) else z).frame := by
    unfold Ppu.dotWork
    generalize (if renderingEnabled u then u.backgroundWork c else u) = z
    simp only [apply_ite Ppu.frame, Ppu.vblankStart, Ppu.prerenderClear, ite_self]
  generalize (if renderingEnabled u then u.backgroundWork c else u) = z at hp hz hframe
  have hpixel := pixel_congr (hk.mask.trans hz.keeps.mask.symm) (hk.x.trans hz.keeps.x.symm)
    (hk.palette.trans hz.keeps.palette.symm) hp
  rw [hframe, hpixel]
  dsimp only
  rw [apply_ite Ppu.frame, Ppu.outputPixel, hz.keeps.scanline, hz.keeps.dot, hz.frame]

theorem advance_frame (skip : Bool) (u : Ppu) : (u.advance skip).1.frame = u.frame := by
  rcases advance_cases skip u with ⟨-, -, h⟩ | ⟨-, -, -, h⟩ | ⟨-, h⟩ <;> simp only [h, Ppu.wrap]

theorem tick_frame (c : Cartridge) (skip : Bool) (u : Ppu) : (tick c skip u).ppu.frame =
    let w := (tick c skip u).ppu
    if w.scanline ≤ 239 ∧ 1 ≤ w.dot ∧ w.dot ≤ 256 then u.frame.setPixel w.scanline (w.dot - 1) (w.pixel (w.dot - 1))
    else u.frame := by
  obtain ⟨es, ed⟩ := tick_position c u skip
  dsimp only
  rw [es, ed, ← advance_frame skip u]
  exact dotWork_frame c (u.advance skip).1

/-! ### The pixel on numbers -/

/-- The mask of R378 is the one bit that fine X selects. -/
theorem shiftedMask_eq_twoPow : ∀ x : BitVec 3, 0x8000#16 >>> x.toNat = BitVec.twoPow 16 (15 - x.toNat) := by decide

theorem and_shiftedMask_ne_zero (r : BitVec 16) (x : BitVec 3) :
    r &&& (0x8000#16 >>> x.toNat) ≠ 0 ↔ r.getLsbD (15 - x.toNat) = true := by
  have hne : ∀ x : BitVec 3, BitVec.twoPow 16 (15 - x.toNat) ≠ 0 := by decide
  rw [shiftedMask_eq_twoPow, BitVec.and_twoPow]
  split_ifs with h
  · exact iff_of_true (hne x) h
  · exact iff_of_false (not_not_intro rfl) h

theorem twoBits_eq (hi lo : BitVec 16) (x : BitVec 3) : twoBits hi lo x =
    (if hi.getLsbD (15 - x.toNat) then 1 else 0) * 2 + (if lo.getLsbD (15 - x.toNat) then 1 else 0) := by
  simp only [twoBits, and_shiftedMask_ne_zero, ite_mul, one_mul, zero_mul]

theorem twoBits_lt (hi lo : BitVec 16) (x : BitVec 3) : twoBits hi lo x < 4 := by
  rw [twoBits_eq]
  split_ifs <;> decide

/-- A hidden background is a transparent one: it gives the backdrop (R378). -/
theorem pixelIndex_eq (u : Ppu) (x : Nat) : u.pixelIndex x =
    let p := if u.bgShown x then twoBits u.shPatHi u.shPatLo u.x else 0
    if p = 0 then 0 else twoBits u.shAttHi u.shAttLo u.x * 4 + p := by
  unfold Ppu.pixelIndex
  cases u.bgShown x <;> rfl

theorem pixelIndex_lt (u : Ppu) (x : Nat) : u.pixelIndex x < 16 := by
  have hp := twoBits_lt u.shPatHi u.shPatLo u.x
  have ha := twoBits_lt u.shAttHi u.shAttLo u.x
  rw [pixelIndex_eq]
  dsimp only
  split_ifs <;> omega

/-- A background index is its own palette entry: the mirrored entries are the sprites' (R135). -/
theorem palIndex_background {i : Nat} (h : i < 16) : palIndex (BitVec.ofNat 14 (0x3F00 + i)) = i := by
  have hi : (BitVec.ofNat 14 (0x3F00 + i)).toNat % 0x20 = i := by
    rw [BitVec.toNat_ofNat]
    omega
  unfold palIndex
  rw [hi]
  exact if_neg (by omega)

theorem toNat_pixelColour (u : Ppu) (x : Nat) : (u.pixelColour x).toNat =
    let colour := (Memory.read 0 u.palette (u.pixelIndex x)).toNat
    if u.mask.getLsbD 0 then colour / 16 * 16 else colour := by
  unfold Ppu.pixelColour Ppu.paletteAt
  rw [palIndex_background (pixelIndex_lt u x)]
  generalize Memory.read 0 u.palette (u.pixelIndex x) = colour
  have hlt := colour.isLt
  have hgrey : (colour &&& 0x30#6).toNat = colour.toNat / 16 * 16 := by
    rw [toNat_and_field (lo := 4) (w := 2) colour _ rfl]
    omega
  dsimp only
  rw [apply_ite BitVec.toNat, hgrey]

theorem toNat_pixel (u : Ppu) (x : Nat) : (u.pixel x).toNat = u.mask.toNat / 32 * 64 + (u.pixelColour x).toNat := by
  have hlt := u.mask.isLt
  have hemphasis : ((u.mask >>> 5).setWidth 9 <<< 6).toNat = (u.mask.toNat / 32) <<< 6 := by
    simp only [BitVec.toNat_shiftLeft, BitVec.toNat_setWidth, BitVec.toNat_ushiftRight, Nat.shiftLeft_eq,
      Nat.shiftRight_eq_div_pow]
    omega
  have hcolour : ((u.pixelColour x).setWidth 9).toNat = (u.pixelColour x).toNat :=
    BitVec.toNat_setWidth_of_le (by decide)
  rw [Ppu.pixel, BitVec.toNat_or, hemphasis, hcolour, ← Nat.shiftLeft_add_eq_or_of_lt (u.pixelColour x).isLt,
    Nat.shiftLeft_eq]

/-- Settles O53: the frame after a tick is `tick_frame`, and the pixel it sets is read off on numbers. -/
theorem pixelOutput : Obligations.PixelOutput := by
  intro c skip u w visible x bit shown p idx colour
  have hf : w.frame = if visible then u.frame.setPixel w.scanline x (w.pixel x) else u.frame := tick_frame c skip u
  have hidx : w.pixelIndex x = idx := by
    rw [pixelIndex_eq, twoBits_eq, twoBits_eq]
    rfl
  refine ⟨fun hv => ?_, fun y x' hother => ?_⟩
  · rw [hf, if_pos hv, Frame.pixelAt_setPixel_self, toNat_pixel, toNat_pixelColour, hidx]
  · rw [hf]
    split_ifs with hv
    · exact Frame.pixelAt_setPixel_other _ _ _ _ _ _ (not_and_or.1 fun hsame => hother ⟨hv, hsame⟩)
    · rfl

end Sys2Proof.Machine
end

section
/-! A frame from (0, 0) (O49, O50): inside a frame the ticks count the dots, and the flags change at two of them alone. -/

namespace Sys2Proof.Machine

open Claims

variable {c : Cartridge} {skip : Bool} {u : Ppu} {n : Nat}

/-! ### The odd-frame skip -/

theorem frameTicks_cases (skip : Bool) (u : Ppu) : (skipApplies skip u = true ∧ frameTicks skip u = 89341) ∨
    (skipApplies skip u = false ∧ frameTicks skip u = 89342) := by
  unfold frameTicks
  cases skipApplies skip u
  · exact .inr ⟨rfl, rfl⟩
  · exact .inl ⟨rfl, rfl⟩

/-- The dot is skipped at (261, 339) alone, in a frame the skip applies to (R361). -/
theorem skipsDot_eq_true_iff : u.skipsDot skip = true ↔ skipApplies skip u = true ∧ u.scanline = 261 ∧ u.dot = 339 := by
  simp [Ppu.skipsDot, skipApplies, and_assoc]

/-- Whether the skip applies rests on the parity and the mask alone. -/
theorem skipApplies_congr {q : Ppu} (ho : q.oddFrame = u.oddFrame) (hm : q.mask = u.mask) :
    skipApplies skip q = skipApplies skip u := by
  unfold skipApplies renderingEnabled
  rw [ho, hm]

/-! ### Inside a frame -/

/-- A flag `n` ticks into a frame: as it stood up to (241, 1), then as that dot set it, and clear from (261, 1) on. -/
def flagInFrame (old new : Bool) (n : Nat) : Bool := if n < 82182 then old else if n < 89002 then new else false

theorem flagInFrame_of_lt (old new : Bool) (h : n < 82182) : flagInFrame old new n = old := if_pos h

theorem flagInFrame_between (old new : Bool) (h : 82182 ≤ n) (h' : n < 89002) : flagInFrame old new n = new := by
  rw [flagInFrame, if_neg (by omega), if_pos h']

theorem flagInFrame_of_le (old new : Bool) (h : 89002 ≤ n) : flagInFrame old new n = false := by
  rw [flagInFrame, if_neg (by omega), if_neg (by omega)]

/-- One tick on, the flag is set at (241, 1), clear at (261, 1), and else as it was (R380, R382). -/
theorem flagInFrame_succ (raise : Bool → Bool) (old : Bool) (n : Nat) : flagInFrame old (raise old) (n + 1) =
    if n = 82181 then raise (flagInFrame old (raise old) n) else if n = 89001 then false
    else flagInFrame old (raise old) n := by
  split_ifs with h1 h2
  · rw [flagInFrame_of_lt (n := n) _ _ (by omega), flagInFrame_between _ _ (by omega) (by omega)]
  · exact flagInFrame_of_le _ _ (by omega)
  · have hsame : (n + 1 < 82182 ↔ n < 82182) ∧ (n + 1 < 89002 ↔ n < 89002) := by omega
    simp only [flagInFrame, hsame.1, hsame.2]

/-- What `n` ticks from (0, 0) have done, none of them the frame's last. -/
structure Ppu.InFrame (u : Ppu) (n : Nat) (r : TicksResult) : Prop where
  position : r.ppu.position = n
  dot : r.ppu.dot < 341
  scanline : r.ppu.scanline < 262
  oddFrame : r.ppu.oddFrame = u.oddFrame
  ctrl : r.ppu.ctrl = u.ctrl
  mask : r.ppu.mask = u.mask
  frames : r.frames = []
  vblank : r.ppu.vblank = flagInFrame u.vblank true n
  nmiPending : r.ppu.nmiPending = flagInFrame u.nmiPending (u.nmiPending || u.ctrl.getLsbD 7) n

/-- Inside a frame the next dot is not skipped, unless it is the frame's last. -/
theorem Ppu.InFrame.skipsDot_eq_false {r : TicksResult} (h : u.InFrame n r) (hn : n + 1 < frameTicks skip u) :
    r.ppu.skipsDot skip = false := by
  rw [Bool.eq_false_iff]
  intro hskip
  obtain ⟨happlies, hs, hd⟩ := skipsDot_eq_true_iff.1 hskip
  rw [skipApplies_congr h.oddFrame h.mask] at happlies
  have hp := h.position
  rw [Ppu.position, hs, hd] at hp
  rcases frameTicks_cases skip u with ⟨-, hf⟩ | ⟨hno, -⟩
  · omega
  · rw [happlies] at hno
    cases hno

/-- Inside a frame the next tick moves one dot on, unless it is the frame's last. -/
theorem Ppu.InFrame.moves {r : TicksResult} (h : u.InFrame n r) (hn : n + 1 < frameTicks skip u) (c : Cartridge) :
    r.ppu.Moves (tick c skip r.ppu) := by
  refine tick_moves c skip h.dot h.scanline (h.skipsDot_eq_false hn) ?_
  rw [h.position]
  rcases frameTicks_cases skip u with ⟨-, hf⟩ | ⟨-, hf⟩ <;> omega

/-- The frame's last tick is from the skipped dot or from (261, 340). -/
theorem Ppu.InFrame.wraps {r : TicksResult} (h : u.InFrame n r) (hn : n + 1 = frameTicks skip u) (c : Cartridge) :
    r.ppu.Wraps (tick c skip r.ppu) := by
  have hp := h.position
  have hd := h.dot
  unfold Ppu.position at hp
  refine tick_wraps c skip ?_
  rcases frameTicks_cases skip u with ⟨happlies, hf⟩ | ⟨-, hf⟩
  · refine .inl (skipsDot_eq_true_iff.2 ⟨?_, by omega, by omega⟩)
    rw [skipApplies_congr h.oddFrame h.mask, happlies]
  · exact .inr ⟨by omega, by omega⟩

theorem ticks_inFrame (c : Cartridge) (hs : u.scanline = 0) (hd : u.dot = 0) (hn : n < frameTicks skip u) :
    u.InFrame n (ticks c skip n u) := by
  induction n with
  | zero =>
    exact ⟨by simp [ticks, Ppu.position, hs, hd], by simp [ticks, hd], by simp [ticks, hs], rfl, rfl, rfl, rfl, rfl, rfl⟩
  | succ n ih =>
    have h := ih (by omega)
    have m := h.moves hn c
    have k := tick_keepsRegs c skip (ticks c skip n u).ppu
    rw [ticks_succ_last]
    refine ⟨?_, m.dot, m.scanline, m.oddFrame.trans h.oddFrame, k.ctrl.trans h.ctrl, k.mask.trans h.mask, ?_, ?_, ?_⟩
    · rw [m.position, h.position]
    · simp only [m.frameDone, h.frames]
      rfl
    · rw [m.vblank, h.position, h.vblank]
      exact (flagInFrame_succ (fun _ => true) _ n).symm
    · rw [m.nmiPending, h.position, h.nmiPending, h.ctrl]
      exact (flagInFrame_succ (· || u.ctrl.getLsbD 7) _ n).symm

/-! ### The obligations -/

/-- The frame's last tick follows the others. -/
theorem exists_succ_eq_frameTicks (skip : Bool) (u : Ppu) : ∃ n, n + 1 = frameTicks skip u := by
  rcases frameTicks_cases skip u with ⟨-, hf⟩ | ⟨-, hf⟩
  · exact ⟨89340, hf.symm⟩
  · exact ⟨89341, hf.symm⟩

/-- Settles O49: inside the frame `ticks_inFrame` counts the dots, and the last tick wraps. -/
theorem frameLength : Obligations.FrameLength := by
  intro c skip u hs hd
  refine ⟨fun n hn => ?_, fun k hk => ?_⟩
  · have h := ticks_inFrame c hs hd hn
    have hp := h.position
    have hdot := h.dot
    unfold Ppu.position at hp
    exact ⟨by omega, by omega, h.frames⟩
  · obtain ⟨n, hn⟩ := exists_succ_eq_frameTicks skip u
    have h := ticks_inFrame c hs hd (n := n) (skip := skip) (by omega)
    have w := h.wraps hn c
    rw [hk, ← hn, ticks_succ_last]
    refine ⟨w.scanline, w.dot, w.oddFrame.trans (by rw [h.oddFrame]), w.frameComplete, _, w.presented, ?_⟩
    simp only [h.frames, w.frameDone, w.presented]
    rfl

/-- Within a frame one tick asserts NMI, the one that reaches (241, 1), and only if PPUCTRL bit 7 is 1 (R380). -/
theorem Ppu.InFrame.nmiNew {r : TicksResult} (h : u.InFrame n r) (hn : n < frameTicks skip u) (c : Cartridge) :
    (tick c skip r.ppu).nmiNew = (decide (n = 82181) && u.ctrl.getLsbD 7) := by
  rcases Nat.lt_or_eq_of_le hn with hn | hn
  · rw [(h.moves hn c).nmiNew, h.position, h.ctrl]
  · have hlast : n ≠ 82181 := by rcases frameTicks_cases skip u with ⟨-, hf⟩ | ⟨-, hf⟩ <;> omega
    rw [(h.wraps hn c).nmiNew, decide_eq_false hlast, Bool.false_and]

/-- The tick that reaches (261, 1) leaves the four flags clear (R382). -/
theorem tick_clears (h : (tick c skip u).ppu.scanline = 261) (h' : (tick c skip u).ppu.dot = 1) :
    (tick c skip u).ppu.vblank = false ∧ (tick c skip u).ppu.nmiPending = false ∧
      (tick c skip u).ppu.sprite0Hit = false ∧ (tick c skip u).ppu.spriteOverflow = false := by
  obtain ⟨-, ⟨hv, hn, hs, ho⟩, -⟩ := backgroundPipeline c skip u
  rw [hv, hn, hs, ho]
  simp only [h, h', and_self, if_true, Nat.reduceEqDiff, and_true, if_false]

/-- Settles O50: the two flags of `ticks_inFrame` before, between and at the two dots. -/
theorem nmiOncePerFrame : Obligations.NmiOncePerFrame := by
  intro c skip u hs hd
  have hframe : 89341 ≤ frameTicks skip u := by rcases frameTicks_cases skip u with ⟨-, hf⟩ | ⟨-, hf⟩ <;> omega
  refine ⟨fun n hn => (ticks_inFrame c hs hd hn).nmiNew hn c, fun n hn => ?_, fun n hn hn' => ?_, fun q hq => ?_⟩
  · have h := ticks_inFrame (skip := skip) c hs hd (n := n) (by omega)
    rw [h.vblank, h.nmiPending, flagInFrame_of_lt _ _ hn, flagInFrame_of_lt _ _ hn]
    exact ⟨rfl, rfl⟩
  · have h := ticks_inFrame (skip := skip) c hs hd (n := n) (by omega)
    rw [h.vblank, h.nmiPending, flagInFrame_between _ _ hn hn', flagInFrame_between _ _ hn hn']
    exact ⟨rfl, rfl⟩
  · obtain ⟨hline, hdot, -⟩ := (frameLength c skip u hs hd).1 89002 (by omega)
    rw [hq]
    rw [ticks_succ_last c skip 89001] at hline hdot ⊢
    exact tick_clears hline hdot

end Sys2Proof.Machine
end

section
/-! Interrupts (O54) and the driver's part (O55): the entries on stack places, what ticks report, and that in a step of up to
2273 cycles the picture unit's two flags say what the ticks reported. -/

namespace Sys2Proof.Machine

open Claims

variable (s : State)

/-! ### The interrupt check and the entries -/

theorem event_of_nmi (h : s.nmiRequest = true) : event s = .nmi := by simp [event, h]

theorem event_of_irq (hn : s.nmiRequest = false) (hl : s.irqLine = true) (hi : s.p.i = false) : event s = .irq := by
  simp [event, hn, hl, hi]

theorem vectorAt_nmiVector : s.vectorAt nmiVector = vectorWord s 0xFFFA 0xFFFB := rfl

theorem nmiEntry_eq : nmiEntry s = { s with
    ram := interruptFrame s s.pc s.params.pushBOnHwInterrupt, sp := s.sp - 3, p := { s.p with i := true }
    pc := vectorWord s 0xFFFA 0xFFFB, nmiRequest := false, cycles := 7 } := by
  rw [nmiEntry, takeInterrupt_eq, vectorAt_nmiVector]
  rfl

theorem irqEntry_eq : irqEntry s = { s with
    ram := interruptFrame s s.pc s.params.pushBOnHwInterrupt, sp := s.sp - 3, p := { s.p with i := true }
    pc := vectorWord s 0xFFFE 0xFFFF, cycles := 7 } := by
  rw [irqEntry, takeInterrupt_eq, vectorAt_irqVector]
  rfl

/-- Settles O54: the check's three events, and the two entries as `takeInterrupt_eq` has them. -/
theorem interruptEntries : Obligations.InterruptEntries := by
  refine fun s hs => ⟨fun hn => ?_, fun hn hl hi => ?_, fun hn hi => event_of_runsInstruction ⟨hs, hn, hi⟩⟩
  · simp only [step, hs, event_of_nmi s hn, nmiEntry_eq]
  · simp only [step, hs, event_of_irq s hn hl hi, irqEntry_eq]

/-! ### What ticks report -/

/-- The report of a run of ticks with one more tick after it (R391). -/
def TicksResult.andTick (r : TicksResult) (q : TickResult) : TicksResult where
  ppu := q.ppu
  nmiNew := r.nmiNew || q.nmiNew
  frames := r.frames ++ if q.frameDone then q.ppu.presented.toList else []

variable (c : Cartridge) (skip : Bool) (u : Ppu)

theorem ticks_succ_eq_andTick (n : Nat) :
    ticks c skip (n + 1) u = (ticks c skip n u).andTick (tick c skip (ticks c skip n u).ppu) :=
  ticks_succ_last c skip n u

/-- Ticks report an NMI when one of them does (R391). -/
theorem ticks_nmiNew_iff (k : Nat) :
    (ticks c skip k u).nmiNew = true ↔ ∃ n < k, (tick c skip (ticks c skip n u).ppu).nmiNew = true := by
  induction k with
  | zero => simp [ticks]
  | succ k ih => rw [ticks_succ_last, Nat.exists_lt_succ_right, ← ih, Bool.or_eq_true]

/-- The frames ticks report are those each completed, in order (R391). -/
theorem ticks_frames_eq (k : Nat) : (ticks c skip k u).frames = (List.range k).flatMap fun n =>
    if (tick c skip (ticks c skip n u).ppu).frameDone then (tick c skip (ticks c skip n u).ppu).ppu.presented.toList
    else [] := by
  induction k with
  | zero => rfl
  | succ k ih => rw [ticks_succ_last, List.range_succ, List.flatMap_append, List.flatMap_singleton, ← ih]

variable {c skip u}

/-- A tick from a legal position moves one dot on, or ends a frame at one of its last two dots (R361). -/
theorem tick_moves_or_wraps (c : Cartridge) (skip : Bool) (h : u.Inv) :
    u.Moves (tick c skip u) ∨ (89340 ≤ u.position ∧ u.Wraps (tick c skip u)) := by
  have hs := h.scanline
  have hd := h.dot
  unfold Ppu.position
  cases hk : u.skipsDot skip with
  | true =>
    obtain ⟨-, hs', hd'⟩ := skipsDot_eq_true_iff.1 hk
    exact .inr ⟨by omega, tick_wraps c skip (.inl hk)⟩
  | false =>
    by_cases hlast : u.scanline = 261 ∧ u.dot = 340
    · exact .inr ⟨by omega, tick_wraps c skip (.inr hlast)⟩
    · exact .inl (tick_moves c skip hd hs hk (by unfold Ppu.position; omega))

/-! ### The flags and the reports, in a step of any length -/

/-- A flag that stands after ticks was raised by one of them, if it was clear before. -/
structure FlagsReported (r : TicksResult) : Prop where
  nmi : r.ppu.nmiPending = true → r.nmiNew = true
  frame : r.ppu.frameComplete = true → r.frames ≠ []

theorem FlagsReported.moves {r : TicksResult} (h : FlagsReported r) {q : TickResult} (m : r.ppu.Moves q) :
    FlagsReported (r.andTick q) := by
  refine ⟨fun hp => ?_, fun hp => ?_⟩
  · simp only [TicksResult.andTick, m.nmiPending] at hp
    simp only [TicksResult.andTick, m.nmiNew]
    split_ifs at hp with h1 h2
    · rcases Bool.or_eq_true_iff.1 hp with hp | hp
      · simp [h.nmi hp]
      · simp [h1, hp]
    · simp [h.nmi hp]
  · simpa [TicksResult.andTick, m.frameDone] using h.frame (m.frameComplete.symm.trans hp)

theorem FlagsReported.wraps {r : TicksResult} (h : FlagsReported r) {q : TickResult} (w : r.ppu.Wraps q) :
    FlagsReported (r.andTick q) := by
  refine ⟨fun hp => ?_, fun _ => ?_⟩
  · simp [TicksResult.andTick, h.nmi (w.nmiPending.symm.trans hp)]
  · simp [TicksResult.andTick, w.frameDone, w.presented]

theorem ticks_flagsReported (c : Cartridge) (skip : Bool) (k : Nat) (i : u.Inv) (hn : u.nmiPending = false)
    (hf : u.frameComplete = false) : FlagsReported (ticks c skip k u) := by
  induction k with
  | zero => exact ⟨by simp [ticks, hn], by simp [ticks, hf]⟩
  | succ k ih =>
    rw [ticks_succ_eq_andTick]
    rcases tick_moves_or_wraps c skip (ticks_inv c skip k i).1 with m | ⟨-, w⟩
    · exact ih.moves m
    · exact ih.wraps w

theorem FlagsReported.nmi_eq {r : TicksResult} (h : FlagsReported r) : (r.nmiNew || r.ppu.nmiPending) = r.nmiNew := by
  cases hp : r.ppu.nmiPending with
  | false => exact Bool.or_false _
  | true => rw [h.nmi hp, Bool.true_or]

theorem FlagsReported.stepFrames_eq {r : TicksResult} (h : FlagsReported r) : stepFrames r = r.frames := by
  refine if_neg fun hc => ?_
  obtain ⟨hempty, hframe⟩ := (Bool.and_eq_true _ _).mp hc
  exact h.frame hframe (List.isEmpty_iff.1 hempty)

/-! ### The flags and the reports, in a step too short to pass both (241, 1) and (261, 1) -/

/-- After `k` ticks the two flags say what the ticks reported, and the position is no more than `k` dots past the dot that
raised each. -/
structure FlagsAgree (k : Nat) (r : TicksResult) : Prop where
  nmi : r.nmiNew = r.ppu.nmiPending
  frames : r.frames = if r.ppu.frameComplete then r.ppu.presented.toList else []
  sinceNmi : r.ppu.nmiPending = true → 82182 ≤ r.ppu.position ∧ r.ppu.position < 82182 + k
  sinceFrame : r.ppu.frameComplete = true → r.ppu.position < k

/-- A tick inside a frame keeps the agreement: it is too early for (261, 1) to clear a reported NMI. -/
theorem FlagsAgree.moves {k : Nat} {r : TicksResult} (h : FlagsAgree k r) (hk : k < 6819) {q : TickResult}
    (m : r.ppu.Moves q) : FlagsAgree (k + 1) (r.andTick q) := by
  have hpending : q.ppu.nmiPending = (r.ppu.nmiPending || q.nmiNew) := by
    rw [m.nmiPending, m.nmiNew]
    split_ifs with h1 h2
    · simp [h1]
    · have hclear : r.ppu.nmiPending = false := by
        rw [Bool.eq_false_iff]
        intro hp
        have := h.sinceNmi hp
        omega
      simp [h1, hclear]
    · simp [h1]
  refine ⟨?_, ?_, fun hp => ?_, fun hp => ?_⟩
  · simp only [TicksResult.andTick, h.nmi, hpending]
  · simp only [TicksResult.andTick, m.frameDone, m.frameComplete, m.presented, h.frames]
    exact List.append_nil _
  · simp only [TicksResult.andTick, m.position]
    rcases Bool.or_eq_true_iff.1 (hpending.symm.trans hp) with hp | hp
    · have := h.sinceNmi hp
      omega
    · rw [m.nmiNew] at hp
      have : r.ppu.position = 82181 := by simpa using ((Bool.and_eq_true _ _).mp hp).1
      omega
  · have := h.sinceFrame (m.frameComplete.symm.trans hp)
    simp only [TicksResult.andTick, m.position]
    omega

/-- A tick that ends a frame keeps the agreement: no other frame and no NMI can have been reported so short before. -/
theorem FlagsAgree.wraps {k : Nat} {r : TicksResult} (h : FlagsAgree k r) (hk : k < 6819) {q : TickResult}
    (hp : 89340 ≤ r.ppu.position) (w : r.ppu.Wraps q) : FlagsAgree (k + 1) (r.andTick q) := by
  have hn : r.ppu.nmiPending = false := by
    rw [Bool.eq_false_iff]
    intro hn
    have := h.sinceNmi hn
    omega
  have hf : r.ppu.frameComplete = false := by
    rw [Bool.eq_false_iff]
    intro hf
    have := h.sinceFrame hf
    omega
  refine ⟨?_, ?_, fun hq => ?_, fun _ => ?_⟩
  · simp only [TicksResult.andTick, w.nmiNew, w.nmiPending, h.nmi, Bool.or_false]
  · simp only [TicksResult.andTick, w.frameDone, w.frameComplete, h.frames, hf]
    rfl
  · simp [TicksResult.andTick, w.nmiPending, hn] at hq
  · simp [TicksResult.andTick, Ppu.position, w.scanline, w.dot]

theorem ticks_flagsAgree (c : Cartridge) (skip : Bool) {k : Nat} (hk : k ≤ 6819) (i : u.Inv)
    (hn : u.nmiPending = false) (hf : u.frameComplete = false) : FlagsAgree k (ticks c skip k u) := by
  induction k with
  | zero => exact ⟨hn.symm, by simp [ticks, hf], by simp [ticks, hn], by simp [ticks, hf]⟩
  | succ k ih =>
    have h := ih (by omega)
    rw [ticks_succ_eq_andTick]
    rcases tick_moves_or_wraps c skip (ticks_inv c skip k i).1 with m | ⟨hp, w⟩
    · exact h.moves (by omega) m
    · exact h.wraps (by omega) hp w

/-- Settles O55: the reports are the ticks', the flags add nothing to them (`FlagsReported`), and in a short step say the same
(`FlagsAgree`). -/
theorem driverPart : Obligations.DriverPart := by
  intro s i after report r u
  have hr : FlagsReported r := ticks_flagsReported _ _ _ i.ppu i.nmiTaken i.frameTaken
  refine ⟨?_, ticks_nmiNew_iff _ _ _ _, ticks_frames_eq _ _ _ _, fun hc => ?_⟩
  · have hticks : stepTicks s = r := rfl
    rw [afterCpu, hticks]
    dsimp only
    rw [hr.nmi_eq, hr.stepFrames_eq]
  · have ha : FlagsAgree (3 * s.cycles) r := ticks_flagsAgree _ _ (by omega) i.ppu i.nmiTaken i.frameTaken
    exact ⟨ha.nmi, ha.frames⟩

end Sys2Proof.Machine
end

section
/-! Power-on, host reset and `State.reset` (O56, O57, O59): the memories hold the given contents, PC is the word at the reset
vector, and what is left is by the definitions. -/

namespace Sys2Proof.Machine

open Claims

/-! ### Power-on -/

theorem vectorAt_resetVector (s : State) : s.vectorAt resetVector = vectorWord s 0xFFFC 0xFFFD := rfl

/-- Power-on loads PC from the reset vector of the machine it gives: loading it changes no cartridge byte. -/
theorem powerOn_pc (cart : Cartridge) (params : Params) (ini : InitParams) :
    (powerOn cart params ini).pc = vectorWord (powerOn cart params ini) 0xFFFC 0xFFFD := rfl

/-- With an accepted image's cartridge, the reset vector is at the fourth and third byte from the image's end (20_memory.md
rules R121, R145). -/
theorem resetVector_of_ingest {img : CartridgeImage} {s : State} (h : ingest img = .ok s.cart) :
    img.prg[img.prg.length - 4]? = some (s.prgAt 0xFFFC) ∧ img.prg[img.prg.length - 3]? = some (s.prgAt 0xFFFD) := by
  obtain ⟨hcheck, -⟩ := (ingest_ok_iff img s.cart).1 h
  obtain ⟨-, hlen, -⟩ := (check_none_iff img).1 hcheck
  have hlo := prgAt_of_ingest h 0xFFFC
  have hhi := prgAt_of_ingest h 0xFFFD
  rcases hlen with hlen | hlen <;> rw [hlen] at hlo hhi ⊢ <;> exact ⟨hlo, hhi⟩

/-- A memory made from full-length contents reads as them. -/
theorem some_read_ofList_full {α : Type} [DecidableEq α] (d : α) {n k : Nat} {l : List α} (hk : k < n)
    (hl : l.length = n) : some (Memory.read d (Memory.ofList d n l) k) = l[k]? := by
  subst hl
  exact some_read_ofList d hk

/-- A palette entry is the low six bits of the byte given for it (10_state.md rule R69). -/
theorem powerOn_palette {ini : InitParams} {k : Nat} (hk : k < 32) (hl : ini.palette.length = 32) :
    some (Memory.read 0 (Ppu.powerOn ini).palette k).toNat = (ini.palette[k]?).map (fun b => b.toNat % 64) := by
  have hread : some (Memory.read 0 (Ppu.powerOn ini).palette k) = (ini.palette[k]?).map (fun b => b.setWidth 6) := by
    rw [← List.getElem?_map]
    exact some_read_ofList_full 0 hk (by rw [List.length_map, hl])
  have hnat := congrArg (Option.map BitVec.toNat) hread
  rw [Option.map_map] at hnat
  exact hnat

/-- Settles O56: PC by `resetVector_of_ingest`, the memories by `some_read_ofList_full` and `powerOn_palette`; every other
piece is the literal of `powerOn`. -/
theorem powerOnState : Obligations.PowerOnState := by
  intro img cart params ini h s
  obtain ⟨hlo, hhi⟩ := resetVector_of_ingest (s := s) h
  exact ⟨rfl, fun _ _ => rfl, ⟨_, _, hlo, hhi, powerOn_pc cart params ini⟩,
    fun _ hk hl => some_read_ofList_full 0 hk hl, fun _ hk hl => some_read_ofList_full 0 hk hl,
    fun _ hk hl => powerOn_palette hk hl, fun _ hk hl => some_read_ofList_full 0 hk hl⟩

/-! ### Host reset -/

/-- A stopped machine takes no driver step (60_exceptions.md rule R326). -/
theorem driverStep_of_not_running {s : State} (h : s.status ≠ .running) : driverStep s = s := by
  unfold driverStep
  split
  · rfl
  · rfl
  · next hs => exact absurd hs h

/-- Settles O57: the fields are those `hostReset` writes, with the reset vector's word by its addresses. -/
theorem hostResetState : Obligations.HostResetState :=
  ⟨fun s => by rw [hostReset, vectorAt_resetVector, Flags.reset], fun _ => driverStep_of_not_running⟩

/-! ### The state after reset -/

theorem blank_inv : Cartridge.blank.Inv := ⟨rfl, rfl⟩

/-- Settles O59: `State.reset` is the power-on of the blank cartridge, and power-on meets the invariant (`powerOn_inv`). -/
theorem resetMeetsTheInvariant : Obligations.ResetMeetsTheInvariant := by
  unfold Obligations.ResetMeetsTheInvariant
  rw [reset_eq_powerOn]
  exact powerOn_inv blank_inv _ _

end Sys2Proof.Machine
end
